-- ==== Sys2Proof/Word.lean ====
section
/-! DEFINITION. The widths of the block's values (00_scope.md R9, R11; 30_encoding.md R80, R81). -/

namespace Sys2Proof

/-- One entry of `LEN_MEM` (`LEN_W` = 8, R9), and one byte lane of the bus (R65). -/
abbrev Byte := BitVec 8

/-- One bus word (`DATA_W` = 32, R9); also one entry of `CODE_MEM`, `BL_COUNT_R`, `NEXT_CODE_R` (`CODE_W` = 32). -/
abbrev Word := BitVec 32

/-- A byte offset inside the block's window (`ADDR_W` = 20, R9, R60). -/
abbrev Offset := BitVec 20

/-- The byte strobes of a write: bit `k` enables byte lane `k` (R80). -/
abbrev Strobe := BitVec 4

/-- The transaction key `{W, off[19:0]}` (R81). -/
abbrev Key := BitVec 21

/-- The index `i = off[17:2]` of the `LEN` and `CODE` windows (R70). -/
abbrev SymIndex := BitVec 16

/-- The index `L = off[5:2]` of the `BL_COUNT` and `NEXT_CODE` arrays (R70). -/
abbrev LenIndex := BitVec 4

end Sys2Proof
end

