-- ==== Sys2Proof/Config.lean ====
section
/-! DEFINITION. The implementation parameters (00_scope.md R9). `N_MAX` and `CCA_BASE` are OPEN and are carried as a
record; every other parameter is fixed by the spec. -/

namespace Sys2Proof

/-- The two OPEN parameters of R9, "A model takes `N_MAX` and `CCA_BASE` as arguments". -/
structure Config where
  /-- `N_MAX`: the number of symbol slots. -/
  nMax : Nat
  /-- `CCA_BASE`: the byte address of offset 0 of the window. -/
  ccaBase : Nat
deriving DecidableEq, Repr

namespace Config

/-- The range R9 and D2 give `N_MAX`: `1 <= N_MAX <= 65535`. -/
def wf (c : Config) : Bool := 1 ≤ c.nMax && c.nMax ≤ 65535

/-- `MB_MAX`, the largest legal `maxbits` (R9, D3). -/
def mbMax : Nat := 15

/-- `NL = MB_MAX + 1`, the number of entries of `BL_COUNT` and `NEXT_CODE` (R9, D11). -/
abbrev nl : Nat := 16

/-- The reference instance of R9, `N_MAX = 288`. DESIGN CHOICE (log 1, log 2): the instance reset starts from;
unsafe only for a claim that uses the number 288 or the base 0. -/
def reference : Config := ⟨288, 0⟩

end Config

end Sys2Proof
end

