-- ==== Sys2Proof/Syntax.lean ====
section
/-! DEFINITION. The places of the register map, the bus request, the two transaction formats, and the instructions:
one constructor of `Instr` for each row of spec/opcode_table.json. -/

namespace Sys2Proof

/-- A mapped place of the window (20_memory.md R63). -/
inductive Target where
  | id
  | param
  | cmd
  | status
  | nsym
  | maxbits
  | irqEn
  | errInfo
  | blCount (L : LenIndex)
  | nextCode (L : LenIndex)
  | len (i : SymIndex)
  | code (i : SymIndex)
deriving DecidableEq, Repr

/-- The access classes of 10_state.md R23. -/
inductive Access where
  | ro
  | rw
  | wo
deriving DecidableEq, Repr

/-- The access class of each place (R63). -/
def Target.access : Target → Access
  | .id => .ro
  | .param => .ro
  | .cmd => .wo
  | .status => .ro
  | .nsym => .rw
  | .maxbits => .rw
  | .irqEn => .rw
  | .errInfo => .ro
  | .blCount _ => .ro
  | .nextCode _ => .ro
  | .len _ => .rw
  | .code _ => .ro

/-- A bus request: "A model represents a request as `Read(off)` or `Write(off, wdata, wstrb)`" (30_encoding.md R80). -/
inductive Request where
  | read (off : Offset)
  | write (off : Offset) (wdata : Word) (wstrb : Strobe)
deriving DecidableEq, Repr

/-- All four byte lanes enabled (R61, `0b1111` of R82). -/
def fullStrobe : Strobe := 0xF#4

/-- The two formats of the opcode table (R80, R83): `bus` is a bus request, decoded by its key (R82); `cmd` is a host
write of the command word `w` to `CMD` with full strobes, told by its command row (R84, R140). -/
inductive Transaction where
  | cmd (w : Word)
  | bus (r : Request)
deriving DecidableEq, Repr

/-- The rows of spec/opcode_table.json. `w` is a 32-bit data word; `L` and `i` are the array indices of R70; a refused
transaction carries its whole request. -/
inductive Instr where
  -- command rows (41_commands.md)
  | nop
  | assign
  | clrstat
  | illegalCmd (w : Word)
  | cmdWhileBusy (w : Word)
  -- bus rows (40_host_access.md)
  | rdId
  | rdParam
  | rdCmd
  | wrCmd (w : Word)
  | rdStatus
  | rdNsym
  | wrNsym (w : Word)
  | rdMaxbits
  | wrMaxbits (w : Word)
  | rdIrqEn
  | wrIrqEn (w : Word)
  | rdErrInfo
  | rdBlCount (L : LenIndex)
  | rdNextCode (L : LenIndex)
  | rdLen (i : SymIndex)
  | wrLen (i : SymIndex) (w : Word)
  | rdCode (i : SymIndex)
  -- writes to read-only places (R104)
  | wrId (w : Word)
  | wrParam (w : Word)
  | wrStatus (w : Word)
  | wrErrInfo (w : Word)
  | wrBlCount (L : LenIndex) (w : Word)
  | wrNextCode (L : LenIndex) (w : Word)
  | wrCode (i : SymIndex) (w : Word)
  -- refused transactions (R101, R102, R103)
  | misaligned (r : Request)
  | unmapped (r : Request)
  | partialStrobe (off : Offset) (wdata : Word) (wstrb : Strobe)
deriving DecidableEq, Repr

end Sys2Proof
end

