-- ==== Sys2Proof/WellFormed.lean ====
section
/-! DEFINITION. The conditions the opcode table puts on its rows. `wellFormed` is about the operands alone (for an
instance with `nMax` symbol slots); `applies` is the condition on `STATUS.BUSY` of the command rows. -/

namespace Sys2Proof

/-- `off[1:0] = 0` (20_memory.md R62). -/
def aligned (off : Offset) : Bool := off.extractLsb' 0 2 == 0#2

/-- The unmapped offsets, the five ranges of 20_memory.md R64 as it lists them. -/
def inUnmappedSet (nMax : Nat) (off : Offset) : Bool :=
  let n := off.toNat
  (0x00020 ≤ n && n ≤ 0x0003F)
    || (0x000C0 ≤ n && n ≤ 0x3FFFF)
    || (0x40000 ≤ n && n ≤ 0x7FFFF && nMax ≤ (n - 0x40000) / 4)
    || (0x80000 ≤ n && n ≤ 0xBFFFF && nMax ≤ (n - 0x80000) / 4)
    || 0xC0000 ≤ n

/-- The offset a request names (R80). -/
def Request.off : Request → Offset
  | .read off => off
  | .write off _ _ => off

/-- The operand conditions of each row of the opcode table: `i < N_MAX` for the `LEN` and `CODE` rows (R81), a word that
is no command for `ILLEGAL_CMD` (R84), and the condition of each refused row (R101, R102, R103). -/
def Instr.wellFormed (nMax : Nat) : Instr → Bool
  | .illegalCmd w => w ≠ 0 && w ≠ 1 && w ≠ 2
  | .rdLen i => i.toNat < nMax
  | .wrLen i _ => i.toNat < nMax
  | .rdCode i => i.toNat < nMax
  | .wrCode i _ => i.toNat < nMax
  | .misaligned r => !aligned r.off
  | .unmapped r => aligned r.off && inUnmappedSet nMax r.off
  | .partialStrobe off _ wstrb => aligned off && !inUnmappedSet nMax off && wstrb ≠ fullStrobe
  | .nop => true
  | .assign => true
  | .clrstat => true
  | .cmdWhileBusy _ => true
  | .rdId => true
  | .rdParam => true
  | .rdCmd => true
  | .wrCmd _ => true
  | .rdStatus => true
  | .rdNsym => true
  | .wrNsym _ => true
  | .rdMaxbits => true
  | .wrMaxbits _ => true
  | .rdIrqEn => true
  | .wrIrqEn _ => true
  | .rdErrInfo => true
  | .rdBlCount _ => true
  | .rdNextCode _ => true
  | .wrId _ => true
  | .wrParam _ => true
  | .wrStatus _ => true
  | .wrErrInfo _ => true
  | .wrBlCount _ _ => true
  | .wrNextCode _ _ => true

/-- Which rows the dispatch of 41_commands.md R140 can pick when `STATUS.BUSY` is `busy`: while BUSY every word is
`CMD_WHILE_BUSY`, otherwise a word is one of the other four rows. A bus row is picked in every state (R82). -/
def Instr.applies (busy : Bool) : Instr → Bool
  | .nop => !busy
  | .assign => !busy
  | .clrstat => !busy
  | .illegalCmd _ => !busy
  | .cmdWhileBusy _ => busy
  | .rdId => true
  | .rdParam => true
  | .rdCmd => true
  | .wrCmd _ => true
  | .rdStatus => true
  | .rdNsym => true
  | .wrNsym _ => true
  | .rdMaxbits => true
  | .wrMaxbits _ => true
  | .rdIrqEn => true
  | .wrIrqEn _ => true
  | .rdErrInfo => true
  | .rdBlCount _ => true
  | .rdNextCode _ => true
  | .rdLen _ => true
  | .wrLen _ _ => true
  | .rdCode _ => true
  | .wrId _ => true
  | .wrParam _ => true
  | .wrStatus _ => true
  | .wrErrInfo _ => true
  | .wrBlCount _ _ => true
  | .wrNextCode _ _ => true
  | .wrCode _ _ => true
  | .misaligned _ => true
  | .unmapped _ => true
  | .partialStrobe _ _ _ => true

end Sys2Proof
end

