-- ==== Sys2Proof/Decode.lean ====
section
/-! DEFINITION. The decoder (30_encoding.md R82, R84, R140), total on every transaction and on any bytes; after it the
encoder, the address map (20_memory.md R63) read the other way, and the opcode table's match and mask of each row. -/

namespace Sys2Proof

/-! ## Decoding a bus request (R82) -/

/-- What the first half of R82 finds at an offset. -/
inductive Place where
  | misaligned
  | unmapped
  | mapped (t : Target)
deriving DecidableEq, Repr

/-- `i = off[17:2]` (R70). -/
def symIndexOf (off : Offset) : SymIndex := off.extractLsb' 2 16

/-- `L = off[5:2]` (R70). -/
def lenIndexOf (off : Offset) : LenIndex := off.extractLsb' 2 4

/-- The first half of R82: the lines in the spec's order, the first that matches decides. -/
def decodeOffset (nMax : Nat) (off : Offset) : Place :=
  if off.extractLsb' 0 2 ≠ 0#2 then .misaligned
  else if 0x40000 ≤ off.toNat ∧ off.toNat ≤ 0x7FFFF then
    if nMax ≤ (symIndexOf off).toNat then .unmapped else .mapped (.len (symIndexOf off))
  else if 0x80000 ≤ off.toNat ∧ off.toNat ≤ 0xBFFFF then
    if nMax ≤ (symIndexOf off).toNat then .unmapped else .mapped (.code (symIndexOf off))
  else if 0x00040 ≤ off.toNat ∧ off.toNat ≤ 0x0007F then .mapped (.blCount (lenIndexOf off))
  else if 0x00080 ≤ off.toNat ∧ off.toNat ≤ 0x000BF then .mapped (.nextCode (lenIndexOf off))
  else if off = 0x00000#20 then .mapped .id
  else if off = 0x00004#20 then .mapped .param
  else if off = 0x00008#20 then .mapped .cmd
  else if off = 0x0000C#20 then .mapped .status
  else if off = 0x00010#20 then .mapped .nsym
  else if off = 0x00014#20 then .mapped .maxbits
  else if off = 0x00018#20 then .mapped .irqEn
  else if off = 0x0001C#20 then .mapped .errInfo
  else .unmapped

/-- The row of a read of a mapped place (opcode table). -/
def readRow : Target → Instr
  | .id => .rdId
  | .param => .rdParam
  | .cmd => .rdCmd
  | .status => .rdStatus
  | .nsym => .rdNsym
  | .maxbits => .rdMaxbits
  | .irqEn => .rdIrqEn
  | .errInfo => .rdErrInfo
  | .blCount L => .rdBlCount L
  | .nextCode L => .rdNextCode L
  | .len i => .rdLen i
  | .code i => .rdCode i

/-- The row of a full-strobe write of `w` to a mapped place (opcode table). -/
def writeRow (w : Word) : Target → Instr
  | .id => .wrId w
  | .param => .wrParam w
  | .cmd => .wrCmd w
  | .status => .wrStatus w
  | .nsym => .wrNsym w
  | .maxbits => .wrMaxbits w
  | .irqEn => .wrIrqEn w
  | .errInfo => .wrErrInfo w
  | .blCount L => .wrBlCount L w
  | .nextCode L => .wrNextCode L w
  | .len i => .wrLen i w
  | .code i => .wrCode i w

/-- `decode(W, off, wstrb)` of R82, the order of checks of R100. -/
def decodeBus (nMax : Nat) : Request → Instr
  | .read off =>
    match decodeOffset nMax off with
    | .misaligned => .misaligned (.read off)
    | .unmapped => .unmapped (.read off)
    | .mapped t => readRow t
  | .write off wdata wstrb =>
    match decodeOffset nMax off with
    | .misaligned => .misaligned (.write off wdata wstrb)
    | .unmapped => .unmapped (.write off wdata wstrb)
    | .mapped t => if wstrb ≠ fullStrobe then .partialStrobe off wdata wstrb else writeRow wdata t

/-! ## Decoding a command word (R84, R140) -/

/-- The command row of the word `w` in a block whose `STATUS.BUSY` is `busy`: the dispatch of R140. -/
def decodeCmd (busy : Bool) (w : Word) : Instr :=
  if busy then .cmdWhileBusy w
  else if w = 0x00000000#32 then .nop
  else if w = 0x00000001#32 then .assign
  else if w = 0x00000002#32 then .clrstat
  else .illegalCmd w

/-- The instruction a transaction is, for an instance with `nMax` slots whose `STATUS.BUSY` is `busy`. -/
def decode (nMax : Nat) (busy : Bool) : Transaction → Instr
  | .cmd w => decodeCmd busy w
  | .bus r => decodeBus nMax r

/-! ## Encoding -/

/-- The offset of a mapped place: the address map of 20_memory.md R63. -/
def Target.offset : Target → Offset
  | .id => 0x00000#20
  | .param => 0x00004#20
  | .cmd => 0x00008#20
  | .status => 0x0000C#20
  | .nsym => 0x00010#20
  | .maxbits => 0x00014#20
  | .irqEn => 0x00018#20
  | .errInfo => 0x0001C#20
  | .blCount L => BitVec.ofNat 20 (0x00040 + 4 * L.toNat)
  | .nextCode L => BitVec.ofNat 20 (0x00080 + 4 * L.toNat)
  | .len i => BitVec.ofNat 20 (0x40000 + 4 * i.toNat)
  | .code i => BitVec.ofNat 20 (0x80000 + 4 * i.toNat)

/-- `Read(off(target))` (R93). -/
def readOf (t : Target) : Transaction := .bus (.read t.offset)

/-- `Write(off(target), w, 0b1111)` (R93). -/
def writeOf (t : Target) (w : Word) : Transaction := .bus (.write t.offset w fullStrobe)

/-- The transaction of an instruction, from R63 and the command words of R84. -/
def encode : Instr → Transaction
  | .nop => .cmd 0x00000000#32
  | .assign => .cmd 0x00000001#32
  | .clrstat => .cmd 0x00000002#32
  | .illegalCmd w => .cmd w
  | .cmdWhileBusy w => .cmd w
  | .rdId => readOf .id
  | .rdParam => readOf .param
  | .rdCmd => readOf .cmd
  | .wrCmd w => writeOf .cmd w
  | .rdStatus => readOf .status
  | .rdNsym => readOf .nsym
  | .wrNsym w => writeOf .nsym w
  | .rdMaxbits => readOf .maxbits
  | .wrMaxbits w => writeOf .maxbits w
  | .rdIrqEn => readOf .irqEn
  | .wrIrqEn w => writeOf .irqEn w
  | .rdErrInfo => readOf .errInfo
  | .rdBlCount L => readOf (.blCount L)
  | .rdNextCode L => readOf (.nextCode L)
  | .rdLen i => readOf (.len i)
  | .wrLen i w => writeOf (.len i) w
  | .rdCode i => readOf (.code i)
  | .wrId w => writeOf .id w
  | .wrParam w => writeOf .param w
  | .wrStatus w => writeOf .status w
  | .wrErrInfo w => writeOf .errInfo w
  | .wrBlCount L w => writeOf (.blCount L) w
  | .wrNextCode L w => writeOf (.nextCode L) w
  | .wrCode i w => writeOf (.code i) w
  | .misaligned r => .bus r
  | .unmapped r => .bus r
  | .partialStrobe off wdata wstrb => .bus (.write off wdata wstrb)

/-! ## The transaction key and the opcode table (R81, R84) -/

/-- `key = {W, off[19:0]}` (R81). -/
def Request.key : Request → Key
  | .read off => 0#1 ++ off
  | .write off _ _ => 1#1 ++ off

/-- The bus request a transaction is on the port: a command row is a full-strobe write to `CMD` (R83, R140). -/
def Transaction.request : Transaction → Request
  | .cmd w => .write Target.cmd.offset w fullStrobe
  | .bus r => r

/-- The `match` and `mask` of a row of spec/opcode_table.json: over the key for a bus row, over the command word for a
command row. -/
inductive TableRow where
  | bus (value : Key) (mask : Key)
  | cmd (value : Word) (mask : Word)
deriving DecidableEq, Repr

/-- Each row of spec/opcode_table.json, its `match` and `mask` as the table gives them. -/
def Instr.row : Instr → TableRow
  | .nop => .cmd 0x00000000#32 0xFFFFFFFF#32
  | .assign => .cmd 0x00000001#32 0xFFFFFFFF#32
  | .clrstat => .cmd 0x00000002#32 0xFFFFFFFF#32
  | .illegalCmd _ => .cmd 0x00000000#32 0x00000000#32
  | .cmdWhileBusy _ => .cmd 0x00000000#32 0x00000000#32
  | .rdId => .bus 0x000000#21 0x1FFFFF#21
  | .rdParam => .bus 0x000004#21 0x1FFFFF#21
  | .rdCmd => .bus 0x000008#21 0x1FFFFF#21
  | .wrCmd _ => .bus 0x100008#21 0x1FFFFF#21
  | .rdStatus => .bus 0x00000C#21 0x1FFFFF#21
  | .rdNsym => .bus 0x000010#21 0x1FFFFF#21
  | .wrNsym _ => .bus 0x100010#21 0x1FFFFF#21
  | .rdMaxbits => .bus 0x000014#21 0x1FFFFF#21
  | .wrMaxbits _ => .bus 0x100014#21 0x1FFFFF#21
  | .rdIrqEn => .bus 0x000018#21 0x1FFFFF#21
  | .wrIrqEn _ => .bus 0x100018#21 0x1FFFFF#21
  | .rdErrInfo => .bus 0x00001C#21 0x1FFFFF#21
  | .rdBlCount _ => .bus 0x000040#21 0x1FFFC3#21
  | .rdNextCode _ => .bus 0x000080#21 0x1FFFC3#21
  | .rdLen _ => .bus 0x040000#21 0x1C0003#21
  | .wrLen _ _ => .bus 0x140000#21 0x1C0003#21
  | .rdCode _ => .bus 0x080000#21 0x1C0003#21
  | .wrId _ => .bus 0x100000#21 0x1FFFFF#21
  | .wrParam _ => .bus 0x100004#21 0x1FFFFF#21
  | .wrStatus _ => .bus 0x10000C#21 0x1FFFFF#21
  | .wrErrInfo _ => .bus 0x10001C#21 0x1FFFFF#21
  | .wrBlCount _ _ => .bus 0x100040#21 0x1FFFC3#21
  | .wrNextCode _ _ => .bus 0x100080#21 0x1FFFC3#21
  | .wrCode _ _ => .bus 0x180000#21 0x1C0003#21
  | .misaligned _ => .bus 0x000000#21 0x000000#21
  | .unmapped _ => .bus 0x000000#21 0x000000#21
  | .partialStrobe _ _ _ => .bus 0x100000#21 0x100000#21

/-- A transaction has the fixed bits of a table row: `key & mask = match` for a bus row (R81), `wdata & mask = match` for
a command row (R84). -/
def TableRow.matchesTransaction : TableRow → Transaction → Bool
  | .bus value mask, .bus r => r.key &&& mask == value
  | .cmd value mask, .cmd w => w &&& mask == value
  | .bus _ _, .cmd _ => false
  | .cmd _ _, .bus _ => false

/-! ## Transactions as bytes

The spec gives a transaction fields and no byte layout (R80); DESIGN CHOICE (log 5): a command is its word's four bytes,
a bus request eight bytes, little-endian as the bus lanes are (R65): bits [20:0] the key, [55:24] `wdata`, [59:56] the
strobes that are NOT set, so that a line which names no strobe has all four set (R93), the other bits 0. A read carries no
`wdata` and no strobes (R80). -/

/-- `n` bytes of a number, byte `k` its bits `[8k+7:8k]` (R65). -/
def leBytes : Nat → Nat → List Byte
  | 0, _ => []
  | n + 1, v => BitVec.ofNat 8 v :: leBytes n (v / 256)

/-- The number whose byte `k` is element `k` (R65). -/
def leNat : List Byte → Nat
  | [] => 0
  | b :: bs => b.toNat + 256 * leNat bs

/-- Why bytes are no transaction. -/
inductive DecodeReject where
  /-- Neither the four bytes of a command nor the eight of a bus request. -/
  | badLength
  /-- A bit outside the fields of the layout is set. -/
  | strayBits
  /-- A read with write data or strobes (R80: writes only). -/
  | dataOnRead
deriving DecidableEq, Repr

/-- The bus request of an eight-byte layout. -/
def unpackBus (v : BitVec 64) : Except DecodeReject Request :=
  if v.extractLsb' 21 3 ≠ 0#3 ∨ v.extractLsb' 60 4 ≠ 0#4 then .error .strayBits
  else if v.getLsbD 20 then
    .ok (.write (v.extractLsb' 0 20) (v.extractLsb' 24 32) (~~~(v.extractLsb' 56 4)))
  else if v.extractLsb' 24 32 ≠ 0#32 ∨ v.extractLsb' 56 4 ≠ 0#4 then .error .dataOnRead
  else .ok (.read (v.extractLsb' 0 20))

/-- The eight-byte layout of a bus request. -/
def packBus : Request → BitVec 64
  | .read off => 0#44 ++ off
  | .write off wdata wstrb => 0#4 ++ ~~~wstrb ++ wdata ++ 0#3 ++ 1#1 ++ off

/-- The transaction some bytes are, or why they are none. -/
def transactionOfBytes (bs : List Byte) : Except DecodeReject Transaction :=
  if bs.length = 4 then .ok (.cmd (BitVec.ofNat 32 (leNat bs)))
  else if bs.length = 8 then
    match unpackBus (BitVec.ofNat 64 (leNat bs)) with
    | .ok r => .ok (.bus r)
    | .error e => .error e
  else .error .badLength

/-- The bytes of a transaction. -/
def transactionBytes : Transaction → List Byte
  | .cmd w => leBytes 4 w.toNat
  | .bus r => leBytes 8 (packBus r).toNat

/-- The decoder on any bytes. -/
def decodeBytes (nMax : Nat) (busy : Bool) (bs : List Byte) : Except DecodeReject Instr :=
  match transactionOfBytes bs with
  | .ok t => .ok (decode nMax busy t)
  | .error e => .error e

/-- The bytes of an opcode-table word of `nbits` bits: a key (up to 24 bits) or a longer transaction word is a bus
request, a word of 25 to 32 bits is a command; every bit above `nbits` is 0. -/
def tableWordBytes (nbits w : Nat) : List Byte :=
  if nbits ≤ 24 then leBytes 8 (w % 2 ^ nbits)
  else if nbits ≤ 32 then leBytes 4 (w % 2 ^ nbits)
  else leBytes 8 (w % 2 ^ nbits)

/-- The instruction the decoder reads from an opcode-table word, in the reference instance not BUSY: the block right
after reset. -/
def decodeTableWord (nbits w : Nat) : Option Instr :=
  (decodeBytes Config.reference.nMax false (tableWordBytes nbits w)).toOption

end Sys2Proof
end

