-- ==== Sys2Proof/Machine/State.lean ====
section
/-! DEFINITION. The state of one block instance: the record of 10_state.md R46 (R20: "Nothing else is state"), and beside
it the model's own three fields: the instance's parameters, the environment's inputs still to come, the port's answer. -/

namespace Sys2Proof.Machine

/-- A memory of `w`-bit entries, keyed by entry index: a list of (index, value) pairs, indices strictly rising, no value
equal to what an unlisted entry reads as (`Memory.wf` in Ops.lean). `Memory 8` is a list of `Host.Cell`. -/
abbrev Memory (w : Nat) := List (Nat × BitVec w)

/-- `resp` of 30_encoding.md R80: 0 is `OKAY`, 1 is `ERROR`. -/
inductive Resp where
  | okay
  | error
deriving DecidableEq, Repr

/-- What the port answers to one transaction (R12, R80): a read has `rdata` and `resp`, a write has `resp`. -/
inductive Response where
  | read (rdata : Word) (resp : Resp)
  | write (resp : Resp)
deriving DecidableEq, Repr

/-- One input of the block: a host transaction, the point at which the sequencer may take its completion step, or the
environment's reset (R13, R71, R230). -/
inductive Event where
  | transaction (t : Transaction)
  | sequencer
  | reset
deriving DecidableEq, Repr

/-- Why the machine stops with a fault. It has no constructor: the block raises no trap (60_exceptions.md R200) and no
behaviour of it is undefined (93_implementation_defined.md section 1), so nothing ever raises one. -/
inductive Fault : Type
deriving DecidableEq, Repr

/-- Why a step has no meaning. -/
inductive Refusal where
  /-- Raised by `exec` for a row of the opcode table without a meaning. No arm of this model raises it. Safe: the machine
  stops where the hardware goes on. -/
  | notModelled (mnemonic : String)
deriving DecidableEq, Repr

end Sys2Proof.Machine

namespace Sys2Proof.Machine

/-- The block (R46's record, in its order) and the model's own fields. -/
structure State where
  /-- The OPEN parameters of the instance (R9); no step writes them (log 1). -/
  cfg : Config
  /-- `NSYM` (R27). -/
  nsym : Word
  /-- `MAXBITS` (R28). -/
  maxbits : Word
  /-- `IRQ_EN.EN` (R29). -/
  irqEn : Bool
  /-- `STATUS.BUSY` (R31). -/
  busy : Bool
  /-- `STATUS.DONE` (R32). -/
  done : Bool
  /-- `STATUS.ERR` (R33). -/
  err : Bool
  /-- `STATUS.WIGN` (R34). -/
  wign : Bool
  /-- `STATUS.ERR_CODE` (R35). -/
  errCode : BitVec 4
  /-- `ERR_INFO.INDEX` (R37). -/
  errIndex : BitVec 16
  /-- `ERR_INFO.LEN` (R37). -/
  errLen : BitVec 8
  /-- `LEN_MEM` (R38), keyed by symbol index. -/
  lenMem : Memory 8
  /-- `CODE_MEM` (R39), keyed by symbol index. -/
  codeMem : Memory 32
  /-- `BL_COUNT_R` (R40). -/
  blCount : Vector Word Config.nl
  /-- `NEXT_CODE_R` (R41). -/
  nextCode : Vector Word Config.nl
  /-- The inputs still to come, oldest first (R71); the model's own field (log 3). -/
  schedule : List Event
  /-- The port's answer to the most recent transaction (R80); the model's own field (log 4). -/
  response : Option Response
deriving DecidableEq, Repr

/-- The state of an instance right after reset (10_state.md R45, 70_reset_and_hazards.md R231): every element 0. -/
def State.resetOf (cfg : Config) : State where
  cfg := cfg
  nsym := 0#32
  maxbits := 0#32
  irqEn := false
  busy := false
  done := false
  err := false
  wign := false
  errCode := 0#4
  errIndex := 0#16
  errLen := 0#8
  lenMem := []
  codeMem := []
  blCount := Vector.replicate Config.nl 0#32
  nextCode := Vector.replicate Config.nl 0#32
  schedule := []
  response := none

/-- The reference instance (R9, log 1) right after reset. -/
def State.reset : State := State.resetOf Config.reference

end Sys2Proof.Machine
end

