-- ==== Sys2Proof/Machine/Flags.lean ====
section
/-! DEFINITION. The `STATUS` bits: the visible state, the interrupt output, and the two shared status updates of the input
writes (40_host_access.md R122, R123). -/

namespace Sys2Proof.Machine

/-- The visible states (00_scope.md R16); `mixed` is every other combination of BUSY, DONE and ERR, which R36 says never
occurs in a reachable state. -/
inductive VisibleState where
  | idle
  | busy
  | done
  | error
  | mixed
deriving DecidableEq, Repr

/-- The visible state: `(STATUS.BUSY, STATUS.DONE, STATUS.ERR)` read as one of IDLE, BUSY, DONE, ERROR (R16). -/
def visibleState (s : State) : VisibleState :=
  match s.busy, s.done, s.err with
  | false, false, false => .idle
  | true, false, false => .busy
  | false, true, false => .done
  | false, false, true => .error
  | _, _, _ => .mixed

/-- The interrupt output, a function of the state: `irq = IRQ_EN.EN and (STATUS.DONE or STATUS.ERR)` (60_exceptions.md
R213). -/
def irq (s : State) : Bool := s.irqEn && (s.done || s.err)

/-- `ignored_write()`: `STATUS.WIGN <- 1`, nothing else changes (R122). -/
def ignoredWrite (s : State) : State := { s with wign := true }

/-- `input_written()`: `STATUS.DONE <- 0`, no other field changes (R123). -/
def inputWritten (s : State) : State := { s with done := false }

end Sys2Proof.Machine
end

