-- ==== Sys2Proof/Machine/Operands.lean ====
section
/-! DEFINITION. Operand assembly and read formats (30_encoding.md R85 to R90). -/

namespace Sys2Proof.Machine

/-- The error causes (60_exceptions.md R201). -/
inductive ErrCause where
  | lenRange
  | nsymRange
  | maxbitsRange
  | illegalCmd
deriving DecidableEq, Repr

/-- `code(cause)`, the coding of `STATUS.ERR_CODE` (R201). -/
def errCodeOf : ErrCause → BitVec 4
  | .lenRange => 1#4
  | .nsymRange => 2#4
  | .maxbitsRange => 3#4
  | .illegalCmd => 4#4

/-- A length write operand: saturation to 8 bits, not truncation (R85). -/
def saturateLen (wdata : Word) : Byte :=
  if wdata.toNat ≤ 255 then wdata.extractLsb' 0 8 else 255#8

/-- A length read result: `zext_32` of the entry (R86). -/
def lenReadData (v : Byte) : Word := v.zeroExtend 32

/-- The `IRQ_EN` write operand: `EN <- wdata[0]`, the other bits ignored (R88, R90). -/
def irqEnOperand (wdata : Word) : Bool := wdata.getLsbD 0

/-- The `IRQ_EN` read result: `zext_32(EN)` (R88). -/
def irqEnReadData (en : Bool) : Word := (BitVec.ofBool en).zeroExtend 32

/-- `ID` (10_state.md R24). -/
def idWord : Word := 0x43434131#32

/-- `PARAM`: `{0x01, 8'd15, N_MAX[15:0]}` (10_state.md R25, R89). -/
def paramWord (cfg : Config) : Word := 0x01#8 ++ BitVec.ofNat 8 Config.mbMax ++ BitVec.ofNat 16 cfg.nMax

/-- `STATUS`: `{20'b0, ERR_CODE[3:0], 4'b0, WIGN, ERR, DONE, BUSY}` (R30, R89). -/
def statusWord (s : State) : Word :=
  0#20 ++ s.errCode ++ 0#4 ++ BitVec.ofBool s.wign ++ BitVec.ofBool s.err ++ BitVec.ofBool s.done
    ++ BitVec.ofBool s.busy

/-- `ERR_INFO`: `{8'b0, LEN[7:0], INDEX[15:0]}` (R37, R89). -/
def errInfoWord (s : State) : Word := 0#8 ++ s.errLen ++ s.errIndex

end Sys2Proof.Machine
end

