-- ==== Sys2Proof/Machine/Ops.lean ====
section
/-! DEFINITION. The named operations over the state: the memories, the port's answers, recording an error (the
counterpart of taking an exception, 60_exceptions.md R205, R210), the return from it (R144, R211), and reset (R231). -/

namespace Sys2Proof.Machine

/-! ## Memories (10_state.md R38, R39) -/

/-- What an entry that is not listed reads as: 0, the reset value of every entry (R38, R39, R45). -/
abbrev Memory.unlisted (w : Nat) : BitVec w := 0#w

/-- The entry at index `a`. -/
def Memory.read {w : Nat} : Memory w → Nat → BitVec w
  | [], _ => Memory.unlisted w
  | (b, v) :: m, a => if a = b then v else Memory.read m a

/-- The memory with the value `v` at index `a`, in canonical form. -/
def Memory.write {w : Nat} : Memory w → Nat → BitVec w → Memory w
  | [], a, v => if v = Memory.unlisted w then [] else [(a, v)]
  | (b, u) :: m, a, v =>
    if a < b then (if v = Memory.unlisted w then (b, u) :: m else (a, v) :: (b, u) :: m)
    else if a = b then (if v = Memory.unlisted w then m else (a, v) :: m)
    else (b, u) :: Memory.write m a v

/-- The canonical form: indices strictly rising, no value equal to what an unlisted entry reads as. -/
def Memory.wf {w : Nat} : Memory w → Bool
  | [] => true
  | (a, v) :: m => v != Memory.unlisted w && m.all (fun c => a < c.1) && Memory.wf m

/-- Every listed index is a slot of an instance with `n` slots (R38, R39: entries `0..N_MAX-1`). -/
def Memory.within {w : Nat} (n : Nat) (m : Memory w) : Bool := m.all (fun c => c.1 < n)

/-! ## The port's answers (40_host_access.md R100) -/

/-- Put an answer on the port. -/
def respond (r : Response) (s : State) : State := { s with response := some r }

/-- Answer a read: `OKAY` with `rdata`. -/
def answerRead (rdata : Word) (s : State) : State := respond (.read rdata .okay) s

/-- Answer a write: `OKAY`. -/
def answerWrite (s : State) : State := respond (.write .okay) s

/-- Refuse a read: `ERROR`, `rdata = 0`, nothing else changes (R100). -/
def refuseRead (s : State) : State := respond (.read 0#32 .error) s

/-- Refuse a write: `ERROR`, nothing else changes (R100). -/
def refuseWrite (s : State) : State := respond (.write .error) s

/-- Refuse a request of either kind (R100). -/
def refuseRequest (r : Request) (s : State) : State :=
  match r with
  | .read _ => refuseRead s
  | .write _ _ _ => refuseWrite s

/-! ## Errors: entry and exit -/

/-- `raise Error(cause, index, len)` (R205), the one operation that records an error. -/
def raiseError (cause : ErrCause) (index len : Nat) (s : State) : State :=
  { s with
    err := true
    errCode := errCodeOf cause
    errIndex := BitVec.ofNat 16 index
    errLen := BitVec.ofNat 8 len
    done := false }

/-- The return from the error state, the body of `CLRSTAT` (41_commands.md R144, R211). -/
def clearStatus (s : State) : State :=
  { s with
    done := false
    err := false
    errCode := 0#4
    wign := false
    errIndex := 0#16
    errLen := 0#8 }

/-! ## Input writes (R111, R113, R120) -/

/-- A write of an input: ignored while BUSY (R122); otherwise `stored`, the state with the value stored, and `DONE`
cleared (R123). -/
def writeInput (stored s : State) : State := if s.busy then ignoredWrite s else inputWritten stored

/-! ## Reset (70_reset_and_hazards.md R231) -/

/-- `reset()`: every state element to its reset value; the parameters and the inputs still to come are not the block's to
clear. -/
def resetBlock (s : State) : State := { State.resetOf s.cfg with schedule := s.schedule }

end Sys2Proof.Machine
end

