-- ==== Sys2Proof/Machine/BusRefusal.lean ====
section
/-! DEFINITION. The rows the bus answers with `ERROR` (40_host_access.md R100 to R104): no state of the block changes, not
even `STATUS.WIGN`, and a read answers `rdata = 0`. -/

namespace Sys2Proof.Machine

/-- `WR_ID` (R104). -/
def execWrId (_w : Word) (s : State) : Host.Outcome State Fault Refusal := .next (refuseWrite s)

/-- `WR_PARAM` (R104). -/
def execWrParam (_w : Word) (s : State) : Host.Outcome State Fault Refusal := .next (refuseWrite s)

/-- `WR_STATUS` (R104). -/
def execWrStatus (_w : Word) (s : State) : Host.Outcome State Fault Refusal := .next (refuseWrite s)

/-- `WR_ERR_INFO` (R104). -/
def execWrErrInfo (_w : Word) (s : State) : Host.Outcome State Fault Refusal := .next (refuseWrite s)

/-- `WR_BL_COUNT` (R104). -/
def execWrBlCount (_L : LenIndex) (_w : Word) (s : State) : Host.Outcome State Fault Refusal :=
  .next (refuseWrite s)

/-- `WR_NEXT_CODE` (R104). -/
def execWrNextCode (_L : LenIndex) (_w : Word) (s : State) : Host.Outcome State Fault Refusal :=
  .next (refuseWrite s)

/-- `WR_CODE` (R104): the host cannot write a code. -/
def execWrCode (_i : SymIndex) (_w : Word) (s : State) : Host.Outcome State Fault Refusal :=
  .next (refuseWrite s)

/-- `MISALIGNED` (R101). -/
def execMisaligned (r : Request) (s : State) : Host.Outcome State Fault Refusal := .next (refuseRequest r s)

/-- `UNMAPPED` (R102). -/
def execUnmapped (r : Request) (s : State) : Host.Outcome State Fault Refusal := .next (refuseRequest r s)

/-- `PARTIAL_STROBE` (R103). -/
def execPartialStrobe (_off : Offset) (_wdata : Word) (_wstrb : Strobe) (s : State) :
    Host.Outcome State Fault Refusal :=
  .next (refuseWrite s)

end Sys2Proof.Machine
end

