-- ==== Sys2Proof/Machine/Command.lean ====
section
/-! DEFINITION. The command rows (41_commands.md R140 to R145) and the write to `CMD` (40_host_access.md R108). A command
word runs in the write transaction that carries it, whose answer is always `OKAY` (R140). -/

namespace Sys2Proof.Machine

/-- `busy_command(w)` (R141): every word but `NOP` sets `WIGN`; nothing else changes. -/
def busyCommand (w : Word) (s : State) : State := if w ≠ 0x00000000#32 then { s with wign := true } else s

/-- The body of `NOP` (R142): nothing. -/
def commandNop (s : State) : State := s

/-- The body of `ASSIGN` (R143). -/
def commandAssign (s : State) : State :=
  if s.err then { s with wign := true } else { s with done := false, busy := true }

/-- The body of `CLRSTAT` (R144). -/
def commandClrstat (s : State) : State := clearStatus s

/-- The body of `ILLEGAL(w)` (R145): it does not depend on the word. -/
def commandIllegal (s : State) : State :=
  if s.err then { s with wign := true } else raiseError .illegalCmd 0 0 s

/-- A command row in the block's present state: R140 hands every word to R141 while BUSY, and to its own body otherwise. -/
def runCommand (w : Word) (body : State → State) (s : State) : State :=
  if s.busy then busyCommand w s else body s

/-- `command(w)`, the dispatch of R140. -/
def command (w : Word) (s : State) : State :=
  if s.busy then busyCommand w s
  else if w = 0x00000000#32 then commandNop s
  else if w = 0x00000001#32 then commandAssign s
  else if w = 0x00000002#32 then commandClrstat s
  else commandIllegal s

/-- `NOP` (R142). -/
def execNop (s : State) : Host.Outcome State Fault Refusal :=
  .next (answerWrite (runCommand 0x00000000#32 commandNop s))

/-- `ASSIGN` (R143). -/
def execAssign (s : State) : Host.Outcome State Fault Refusal :=
  .next (answerWrite (runCommand 0x00000001#32 commandAssign s))

/-- `CLRSTAT` (R144). -/
def execClrstat (s : State) : Host.Outcome State Fault Refusal :=
  .next (answerWrite (runCommand 0x00000002#32 commandClrstat s))

/-- `ILLEGAL_CMD` (R145): the word `w` is none of the three commands. -/
def execIllegalCmd (w : Word) (s : State) : Host.Outcome State Fault Refusal :=
  .next (answerWrite (runCommand w commandIllegal s))

/-- `CMD_WHILE_BUSY` (R141). The row is picked only while BUSY; DESIGN CHOICE (log 6): in a state that is not BUSY the word
runs as R140 dispatches it. -/
def execCmdWhileBusy (w : Word) (s : State) : Host.Outcome State Fault Refusal :=
  .next (answerWrite (command w s))

/-- `WR_CMD` (R108): the command word runs as R140 says; the answer is `OKAY` for every word. -/
def execWrCmd (w : Word) (s : State) : Host.Outcome State Fault Refusal :=
  .next (answerWrite (command w s))

end Sys2Proof.Machine
end

