-- ==== Sys2Proof/Machine/HostRead.lean ====
section
/-! DEFINITION. The read rows (40_host_access.md R105 to R107, R109, R110, R112, R114, R116 to R119, R121). A read changes
no state of the block (20_memory.md R66); it only puts its answer on the port. -/

namespace Sys2Proof.Machine

/-- A read of an entry of the `LEN` or `CODE` window: `i >= N_MAX` is unmapped (R102; such an operand is never decoded,
log 7). -/
def readSlot (i : SymIndex) (rdata : Word) (s : State) : State :=
  if i.toNat < s.cfg.nMax then answerRead rdata s else refuseRead s

/-- The gate of R117 and R118: the register while `STATUS.DONE = 1`, otherwise 0. -/
def gatedTable (regs : Vector Word Config.nl) (L : LenIndex) (s : State) : Word :=
  if s.done then regs.getD L.toNat 0#32 else 0#32

/-- The gate of R121: `(STATUS.DONE == 1 and i < NSYM) ? CODE_MEM[i] : 0`. -/
def gatedCode (i : SymIndex) (s : State) : Word :=
  if s.done ∧ i.toNat < s.nsym.toNat then s.codeMem.read i.toNat else 0#32

/-- `RD_ID` (R105). -/
def execRdId (s : State) : Host.Outcome State Fault Refusal := .next (answerRead idWord s)

/-- `RD_PARAM` (R106). -/
def execRdParam (s : State) : Host.Outcome State Fault Refusal := .next (answerRead (paramWord s.cfg) s)

/-- `RD_CMD` (R107). -/
def execRdCmd (s : State) : Host.Outcome State Fault Refusal := .next (answerRead 0#32 s)

/-- `RD_STATUS` (R109). -/
def execRdStatus (s : State) : Host.Outcome State Fault Refusal := .next (answerRead (statusWord s) s)

/-- `RD_NSYM` (R110). -/
def execRdNsym (s : State) : Host.Outcome State Fault Refusal := .next (answerRead s.nsym s)

/-- `RD_MAXBITS` (R112). -/
def execRdMaxbits (s : State) : Host.Outcome State Fault Refusal := .next (answerRead s.maxbits s)

/-- `RD_IRQ_EN` (R114). -/
def execRdIrqEn (s : State) : Host.Outcome State Fault Refusal := .next (answerRead (irqEnReadData s.irqEn) s)

/-- `RD_ERR_INFO` (R116). -/
def execRdErrInfo (s : State) : Host.Outcome State Fault Refusal := .next (answerRead (errInfoWord s) s)

/-- `RD_BL_COUNT` (R117). -/
def execRdBlCount (L : LenIndex) (s : State) : Host.Outcome State Fault Refusal :=
  .next (answerRead (gatedTable s.blCount L s) s)

/-- `RD_NEXT_CODE` (R118). -/
def execRdNextCode (L : LenIndex) (s : State) : Host.Outcome State Fault Refusal :=
  .next (answerRead (gatedTable s.nextCode L s) s)

/-- `RD_LEN` (R119). -/
def execRdLen (i : SymIndex) (s : State) : Host.Outcome State Fault Refusal :=
  .next (readSlot i (lenReadData (s.lenMem.read i.toNat)) s)

/-- `RD_CODE` (R121). -/
def execRdCode (i : SymIndex) (s : State) : Host.Outcome State Fault Refusal :=
  .next (readSlot i (gatedCode i s) s)

end Sys2Proof.Machine
end

