-- ==== Sys2Proof/Machine/HostWrite.lean ====
section
/-! DEFINITION. The rows that write an input or the interrupt enable (40_host_access.md R111, R113, R115, R120). -/

namespace Sys2Proof.Machine

/-- `WR_NSYM` (R111). -/
def execWrNsym (w : Word) (s : State) : Host.Outcome State Fault Refusal :=
  .next (answerWrite (writeInput { s with nsym := w } s))

/-- `WR_MAXBITS` (R113). -/
def execWrMaxbits (w : Word) (s : State) : Host.Outcome State Fault Refusal :=
  .next (answerWrite (writeInput { s with maxbits := w } s))

/-- `WR_IRQ_EN` (R115): in every visible state; no status field changes. -/
def execWrIrqEn (w : Word) (s : State) : Host.Outcome State Fault Refusal :=
  .next (answerWrite { s with irqEn := irqEnOperand w })

/-- `WR_LEN` (R120); `i >= N_MAX` is unmapped (R102; such an operand is never decoded, log 7). -/
def execWrLen (i : SymIndex) (w : Word) (s : State) : Host.Outcome State Fault Refusal :=
  .next (if i.toNat < s.cfg.nMax then
    answerWrite (writeInput { s with lenMem := s.lenMem.write i.toNat (saturateLen w) } s)
  else refuseWrite s)

end Sys2Proof.Machine
end

