-- ==== Sys2Proof/Machine/Dispatch.lean ====
section
/-! DEFINITION. One arm per row of spec/opcode_table.json. -/

namespace Sys2Proof.Machine

def exec (i : Instr) (s : State) : Host.Outcome State Fault Refusal :=
  match i with
  -- command rows
  | .nop => Sys2Proof.Machine.execNop s
  | .assign => Sys2Proof.Machine.execAssign s
  | .clrstat => Sys2Proof.Machine.execClrstat s
  | .illegalCmd w => Sys2Proof.Machine.execIllegalCmd w s
  | .cmdWhileBusy w => Sys2Proof.Machine.execCmdWhileBusy w s
  -- bus rows
  | .rdId => Sys2Proof.Machine.execRdId s
  | .rdParam => Sys2Proof.Machine.execRdParam s
  | .rdCmd => Sys2Proof.Machine.execRdCmd s
  | .wrCmd w => Sys2Proof.Machine.execWrCmd w s
  | .rdStatus => Sys2Proof.Machine.execRdStatus s
  | .rdNsym => Sys2Proof.Machine.execRdNsym s
  | .wrNsym w => Sys2Proof.Machine.execWrNsym w s
  | .rdMaxbits => Sys2Proof.Machine.execRdMaxbits s
  | .wrMaxbits w => Sys2Proof.Machine.execWrMaxbits w s
  | .rdIrqEn => Sys2Proof.Machine.execRdIrqEn s
  | .wrIrqEn w => Sys2Proof.Machine.execWrIrqEn w s
  | .rdErrInfo => Sys2Proof.Machine.execRdErrInfo s
  | .rdBlCount L => Sys2Proof.Machine.execRdBlCount L s
  | .rdNextCode L => Sys2Proof.Machine.execRdNextCode L s
  | .rdLen slot => Sys2Proof.Machine.execRdLen slot s
  | .wrLen slot w => Sys2Proof.Machine.execWrLen slot w s
  | .rdCode slot => Sys2Proof.Machine.execRdCode slot s
  -- writes to read-only places
  | .wrId w => Sys2Proof.Machine.execWrId w s
  | .wrParam w => Sys2Proof.Machine.execWrParam w s
  | .wrStatus w => Sys2Proof.Machine.execWrStatus w s
  | .wrErrInfo w => Sys2Proof.Machine.execWrErrInfo w s
  | .wrBlCount L w => Sys2Proof.Machine.execWrBlCount L w s
  | .wrNextCode L w => Sys2Proof.Machine.execWrNextCode L w s
  | .wrCode slot w => Sys2Proof.Machine.execWrCode slot w s
  -- refused transactions
  | .misaligned r => Sys2Proof.Machine.execMisaligned r s
  | .unmapped r => Sys2Proof.Machine.execUnmapped r s
  | .partialStrobe off wdata wstrb => Sys2Proof.Machine.execPartialStrobe off wdata wstrb s

end Sys2Proof.Machine
end

