-- ==== Sys2Proof/Machine/Canon.lean ====
section
/-! DEFINITION. The pure function `CanonAssign` (42_assign_operation.md R160 to R167), on naturals, loop by loop. -/

namespace Sys2Proof.Machine

/-- A 16-entry array of naturals indexed by length, `bl_count` and `next_code` of R160. -/
abbrev LenTable := Vector Nat Config.nl

/-- The all-zero array the loops of R163 and R164 start from. -/
def LenTable.zero : LenTable := Vector.replicate Config.nl 0

/-- Entry `L`. -/
def LenTable.entry (t : LenTable) (L : Nat) : Nat := t.getD L 0

/-- The array with `v` at entry `L`. -/
def LenTable.put (t : LenTable) (L v : Nat) : LenTable := t.setIfInBounds L v

/-- The result type of R160. -/
inductive CanonResult where
  | ok (codes : List Nat) (blCount nextCode : LenTable)
  | err (cause : ErrCause) (index len : Nat)
deriving DecidableEq, Repr

/-- `LEN_MEM[0..n-1]`, in index order. -/
def lengthsOf (m : Memory 8) (n : Nat) : List Nat := (List.range n).map fun i => (m.read i).toNat

/-- R162's loop from index `i` on: the first length above `mb`, with its index. -/
def firstTooLong (mb : Nat) : Nat → List Nat → Option (Nat × Nat)
  | _, [] => none
  | i, len :: rest => if mb < len then some (i, len) else firstTooLong mb (i + 1) rest

/-- The counting loop of R163. -/
def countLengths : List Nat → LenTable → LenTable
  | [], bl => bl
  | len :: rest, bl => countLengths rest (bl.put len (bl.entry len + 1))

/-- Step 1 (R163): the counts, with `bl_count[0]` forced to 0 after counting. -/
def lengthCounts (lens : List Nat) : LenTable := (countLengths lens LenTable.zero).put 0 0

/-- The recurrence of R164, for `k` lengths from `L` on: `code <- (code + bl_count[L-1]) << 1; next_code[L] <- code`. -/
def startCodesFrom (bl : LenTable) : Nat → Nat → Nat → LenTable → LenTable
  | 0, _, _, nc => nc
  | k + 1, L, code, nc =>
    startCodesFrom bl k (L + 1) ((code + bl.entry (L - 1)) <<< 1) (nc.put L ((code + bl.entry (L - 1)) <<< 1))

/-- Step 2 (R164): the starting code of each length `1..mb`. -/
def startCodes (bl : LenTable) (mb : Nat) : LenTable := startCodesFrom bl mb 1 0 LenTable.zero

/-- Step 3 (R165, R166): the codes in ascending symbol order, and `next_code` as it stands after the loop. -/
def assignCodes : List Nat → LenTable → List Nat × LenTable
  | [], nc => ([], nc)
  | len :: rest, nc =>
    if len ≠ 0 then
      (nc.entry len :: (assignCodes rest (nc.put len (nc.entry len + 1))).1,
        (assignCodes rest (nc.put len (nc.entry len + 1))).2)
    else (0 :: (assignCodes rest nc).1, (assignCodes rest nc).2)

/-- Steps 1 to 3 on checked lengths. -/
def assignLengths (lens : List Nat) (mb : Nat) : CanonResult :=
  .ok (assignCodes lens (startCodes (lengthCounts lens) mb)).1 (lengthCounts lens)
    (assignCodes lens (startCodes (lengthCounts lens) mb)).2

/-- `CanonAssign(LEN_MEM, NSYM, MAXBITS)` for an instance with `nMax` slots: the range checks of R161, the length check of
R162, then the three steps. -/
def canonAssign (nMax : Nat) (mem : Memory 8) (nsym maxbits : Word) : CanonResult :=
  if nMax < nsym.toNat then .err .nsymRange 0 0
  else if Config.mbMax < maxbits.toNat then .err .maxbitsRange 0 0
  else
    match firstTooLong maxbits.toNat 0 (lengthsOf mem nsym.toNat) with
    | some (i, len) => .err .lenRange i len
    | none => assignLengths (lengthsOf mem nsym.toNat) maxbits.toNat

end Sys2Proof.Machine
end

