-- ==== Sys2Proof/Machine/Sequencer.lean ====
section
/-! DEFINITION. The sequencer's completion step (42_assign_operation.md R160, R168, R169). -/

namespace Sys2Proof.Machine

/-- `for i in 0..n-1: CODE_MEM[i] <- codes[i]`, from index `i` on (R168). -/
def storeCodes : Memory 32 → Nat → List Nat → Memory 32
  | m, _, [] => m
  | m, i, c :: rest => storeCodes (m.write i (BitVec.ofNat 32 c)) (i + 1) rest

/-- A length-indexed array as the 32-bit registers hold it (R168; R171: no value loses bits). -/
def tableRegisters (t : LenTable) : Vector Word Config.nl :=
  ⟨⟨t.toList.map (BitVec.ofNat 32)⟩, by simp⟩

/-- `commit_success` (R168). -/
def commitSuccess (codes : List Nat) (bl nc : LenTable) (s : State) : State :=
  { s with
    codeMem := storeCodes s.codeMem 0 codes
    blCount := tableRegisters bl
    nextCode := tableRegisters nc
    busy := false
    done := true }

/-- `commit_error` (R169). -/
def commitError (cause : ErrCause) (index len : Nat) (s : State) : State :=
  raiseError cause index len { s with busy := false }

/-- The completion step `complete()` (R160), for a state with `STATUS.BUSY = 1`. -/
def complete (s : State) : State :=
  match canonAssign s.cfg.nMax s.lenMem s.nsym s.maxbits with
  | .ok codes bl nc => commitSuccess codes bl nc s
  | .err cause index len => commitError cause index len s

/-- The sequencer's turn: its one step is "enabled exactly when `STATUS.BUSY = 1`" (R160); a turn in which it is not
enabled changes nothing. -/
def sequencerTurn (s : State) : State := if s.busy then complete s else s

end Sys2Proof.Machine
end

