-- ==== Sys2Proof/Machine/Step.lean ====
section
/-! DEFINITION. One step of a run: the next input of the schedule (20_memory.md R71). The block has no program counter
(10_state.md R22): what it runs next is the host's next transaction. -/

namespace Sys2Proof.Machine

/-- The next input decides the step. With no input left, a BUSY block completes (weak fairness, 70_reset_and_hazards.md
R246) and any other block waits (R247). -/
def step (s : State) : Host.Outcome State Fault Refusal :=
  match s.schedule with
  | [] => .next (sequencerTurn s)
  | .transaction t :: rest => exec (decode s.cfg.nMax s.busy t) { s with schedule := rest }
  | .sequencer :: rest => .next (sequencerTurn { s with schedule := rest })
  | .reset :: rest => .next (resetBlock { s with schedule := rest })

/-- The state in which the transaction of the opcode-table word is the next input. The block runs no program of its own
(R22, R234): its inputs come from the host, and this stands for the host issuing one (log 3). -/
def State.withFetchWord (s : State) (nbits w : Nat) : State :=
  match transactionOfBytes (tableWordBytes nbits w) with
  | .ok t => { s with schedule := .transaction t :: s.schedule }
  | .error _ => s

end Sys2Proof.Machine
end

