-- ==== Sys2Proof/Machine/Script.lean ====
section
/-! DEFINITION. The host's side: byte addresses of the window (00_scope.md R12, 20_memory.md R60), host-script lines and
pseudo-instructions (30_encoding.md R93 to R95). None of it is part of the block; `step` sees only the transactions. -/

namespace Sys2Proof.Machine

/-! ## The window in the platform's address map -/

/-- The offset of a platform byte address, when it lies in the block's window of 2^20 bytes at `CCA_BASE` (R60); decoding
other addresses is the platform's job. -/
def windowOffset (cfg : Config) (addr : Nat) : Option Offset :=
  if cfg.ccaBase ≤ addr ∧ addr < cfg.ccaBase + 2 ^ 20 then some (BitVec.ofNat 20 (addr - cfg.ccaBase)) else none

/-- `MemRead(addr, 4)` (R12) as a request of the block. -/
def memRead (cfg : Config) (addr : Nat) : Option Request := (windowOffset cfg addr).map .read

/-- `MemWrite(addr, 4, data)` (R12) as a request of the block. -/
def memWrite (cfg : Config) (addr : Nat) (data : Word) : Option Request :=
  (windowOffset cfg addr).map fun off => .write off data fullStrobe

/-! ## Host-script lines (R93, R95) -/

/-- `<target>`: a register, an array element, or a raw offset `@0x...`. -/
inductive ScriptPlace where
  | target (t : Target)
  | raw (off : Offset)
deriving DecidableEq, Repr

/-- `off(target)`. -/
def ScriptPlace.offset : ScriptPlace → Offset
  | .target t => t.offset
  | .raw off => off

/-- One line: a write with its value, strobes and asserted response, or a read with its asserted data, if any, and
response. -/
inductive ScriptLine where
  | wr (p : ScriptPlace) (value : Word) (strb : Strobe) (resp : Resp)
  | rd (p : ScriptPlace) (expect : Option Word) (resp : Resp)
deriving DecidableEq, Repr

/-- The transaction of a line. -/
def ScriptLine.request : ScriptLine → Request
  | .wr p value strb _ => .write p.offset value strb
  | .rd p _ _ => .read p.offset

/-- Whether the port's answer is what the line asserts. -/
def ScriptLine.asserts : ScriptLine → Response → Bool
  | .wr _ _ _ resp, .write got => got == resp
  | .rd _ none resp, .read _ got => got == resp
  | .rd _ (some v) resp, .read rdata got => rdata == v && got == resp
  | .wr _ _ _ _, .read _ _ => false
  | .rd _ _ _, .write _ => false

/-- `wr <target>, <value>` (R93): all strobes, `OKAY` asserted. -/
def wr (t : Target) (value : Word) : ScriptLine := .wr (.target t) value fullStrobe .okay

/-- `rd <target>` (R93): result discarded, `OKAY` asserted. -/
def rd (t : Target) : ScriptLine := .rd (.target t) none .okay

/-- The encoding R95 prints for a line: its key, and `wdata` for a write. -/
def ScriptLine.encoding (l : ScriptLine) : Key × Option Word :=
  (l.request.key, match l with | .wr _ value _ _ => some value | .rd _ _ _ => none)

/-! ## Pseudo-instructions (R94) -/

/-- `nop`. -/
def pseudoNop : ScriptLine := wr .cmd 0x0#32

/-- `assign`. -/
def pseudoAssign : ScriptLine := wr .cmd 0x1#32

/-- `clrstat`. -/
def pseudoClrstat : ScriptLine := wr .cmd 0x2#32

/-- `load_lengths [l_i, ...]`, from slot `i` on. R63 and R64 give `LEN[i]` no offset for `i >= 65536`. DESIGN CHOICE (log 15):
the slot index is taken modulo 2^16 there, so that length is written to `LEN[i mod 65536]`. -/
def loadLengthsFrom : Nat → List Word → List ScriptLine
  | _, [] => []
  | i, len :: rest => wr (.len (BitVec.ofNat 16 i)) len :: loadLengthsFrom (i + 1) rest

/-- `load_lengths [l0, ..., lk-1]`. -/
def loadLengths (lens : List Word) : List ScriptLine := loadLengthsFrom 0 lens

/-- `setup n, mb`. -/
def setupLines (n mb : Word) : List ScriptLine := [wr .nsym n, wr .maxbits mb]

/-- A line as an input of the block. -/
def ScriptLine.event (l : ScriptLine) : Event := .transaction (.bus l.request)

/-- `wait_idle` (R94), when the completion step falls after `polls` reads of `STATUS` that still see BUSY: the loop ends
with the first read after it (DEDUCED, log 14). -/
def waitIdle (polls : Nat) : List Event :=
  List.replicate polls (rd .status).event ++ [.sequencer, (rd .status).event]

/-- `run [l0,...,lk-1], mb`, with the completion step after `polls` polls. R94 gives `wr NSYM, k` no word for `k >= 2^32`.
DESIGN CHOICE (log 15): `k` is taken modulo 2^32 there. -/
def runEvents (lens : List Word) (mb : Word) (polls : Nat) : List Event :=
  (loadLengths lens ++ setupLines (BitVec.ofNat 32 lens.length) mb ++ [pseudoAssign]).map ScriptLine.event
    ++ waitIdle polls

end Sys2Proof.Machine
end

