-- ==== Sys2Proof/Machine/Call.lean ====
section
/-! DEFINITION. The source's call `assign_canonical_codes(lengths, maxbits)` as a host program (42_assign_operation.md R176),
run against the block with the sequencer taking its step at any moment (00_scope.md R13). No part of the block: `step` sees
only the transactions. -/

namespace Sys2Proof.Machine

/-! ## The fields of a `STATUS` word (10_state.md R30), as the host reads them -/

/-- `STATUS.BUSY`. -/
def statusBusy (v : Word) : Bool := v.getLsbD 0

/-- `STATUS.DONE`. -/
def statusDone (v : Word) : Bool := v.getLsbD 1

/-- `STATUS.ERR`. -/
def statusErr (v : Word) : Bool := v.getLsbD 2

/-- `STATUS.ERR_CODE`. -/
def statusErrCode (v : Word) : BitVec 4 := v.extractLsb' 8 4

/-! ## The host program -/

/-- How the call ends: with the codes read, or with `STATUS.ERR_CODE` and the `ERR_INFO` word. -/
inductive CallResult where
  | codes (codes : List Word)
  | failed (errCode : BitVec 4) (errInfo : Word)
deriving DecidableEq, Repr

/-- Where the call stands in R176's sequence. -/
inductive CallPhase where
  /-- `wait until STATUS.BUSY == 0`. -/
  | waiting
  /-- The writes, from `clrstat` or the first length to `assign`: the next line and those after it. -/
  | writing (line : ScriptLine) (rest : List ScriptLine)
  /-- `wait_idle`. -/
  | polling
  /-- `codes[i] = rd CODE[i]`, with the codes read so far. -/
  | reading (codes : List Word)
  /-- The call fails; `ERR_INFO` is still to be read. -/
  | failing (errCode : BitVec 4)
  /-- The call has ended. -/
  | returned (r : CallResult)
deriving DecidableEq, Repr

/-- The lines from `if STATUS.ERR == 1: clrstat` to `assign`. More lengths than `LEN` has offsets, or than `NSYM` has values,
are as in `loadLengthsFrom` and `runEvents` (DESIGN CHOICE, log 15). -/
def callLines (err : Bool) (lens : List Word) (mb : Word) : List ScriptLine :=
  (if err then [pseudoClrstat] else []) ++ loadLengths lens ++ setupLines (BitVec.ofNat 32 lens.length) mb
    ++ [pseudoAssign]

/-- On to the next write; after the last one `wait_idle`. -/
def nextWrite : List ScriptLine → CallPhase
  | [] => .polling
  | line :: rest => .writing line rest

/-- On to the next code; after the last of the `k` codes the call returns them. -/
def nextRead (k : Nat) (codes : List Word) : CallPhase :=
  if codes.length < k then .reading codes else .returned (.codes codes)

/-- The line the call issues next. -/
def callLine : CallPhase → Option ScriptLine
  | .waiting => some (rd .status)
  | .writing line _ => some line
  | .polling => some (rd .status)
  | .reading codes => some (rd (.code (BitVec.ofNat 16 codes.length)))
  | .failing _ => some (rd .errInfo)
  | .returned _ => none

/-- What the call does with the answer of its line. The read of `STATUS` that ends a wait is also the one whose `ERR`, or
`DONE` and `ERR_CODE`, decide (DEDUCED, log 14); the response to a write decides nothing. -/
def callAnswer (lens : List Word) (mb : Word) : CallPhase → Response → CallPhase
  | .waiting, .read v _ => if statusBusy v then .waiting else nextWrite (callLines (statusErr v) lens mb)
  | .writing _ rest, .write _ => nextWrite rest
  | .polling, .read v _ =>
    if statusBusy v then .polling
    else if statusDone v then nextRead lens.length []
    else .failing (statusErrCode v)
  | .reading codes, .read v _ => nextRead lens.length (codes ++ [v])
  | .failing errCode, .read v _ => .returned (.failed errCode v)
  | .returned r, _ => .returned r
  | .waiting, .write _ => .waiting
  | .writing line rest, .read _ _ => .writing line rest
  | .polling, .write _ => .polling
  | .reading codes, .write _ => .reading codes
  | .failing errCode, .write _ => .failing errCode

/-! ## The call against the block -/

/-- The two agents (R13). -/
inductive Agent where
  | host
  | sequencer
deriving DecidableEq, Repr

/-- The call and the block it runs against. -/
structure CallState where
  phase : CallPhase
  block : State
deriving DecidableEq, Repr

/-- The block after one step whose only input is `e`. -/
def advance (e : Event) (s : State) : State :=
  match step { s with schedule := [e] } with
  | .next t => t
  | .fault _ => s
  | .refused _ => s

/-- The phase after the block's answer. -/
def callPhaseAfter (lens : List Word) (mb : Word) (p : CallPhase) (t : State) : CallPhase :=
  match t.response with
  | some r => callAnswer lens mb p r
  | none => p

/-- One turn: the sequencer's, or the host's with the call's next line; a call that has ended issues nothing. -/
def callTurn (lens : List Word) (mb : Word) (c : CallState) : Agent → CallState
  | .sequencer => { c with block := advance .sequencer c.block }
  | .host =>
    match callLine c.phase with
    | some line =>
      { phase := callPhaseAfter lens mb c.phase (advance line.event c.block), block := advance line.event c.block }
    | none => c

/-- The call from its start against the block `s`, for the given order of turns. No other host and no reset takes part. -/
def runCall (lens : List Word) (mb : Word) (turns : List Agent) (s : State) : CallState :=
  turns.foldl (callTurn lens mb) { phase := .waiting, block := s }

end Sys2Proof.Machine
end

