-- ==== Sys2Proof/Machine/Reference.lean ====
section
/-! DEFINITION. The reference micro-architecture's sequencer (70_reset_and_hazards.md R243) and its cycle counts (R244).
Informative: "No rule of the model depends on it", and `step` does not use it; its registers are the hidden state of
10_state.md R42. It is here so that it can be proved to compute what the completion step computes, in R244's cycles. -/

namespace Sys2Proof.Machine

/-- The phases of R243. -/
inductive RefPhase where
  | idle
  | check
  | count
  | gen
  | asgn
  | fin
deriving DecidableEq, Repr

/-- The sequencer's hidden registers: a phase, a loop index (`i` in COUNT and ASGN, `L` in GEN), the running `code`, the
partly filled arrays, the code entries written so far, a failure found; and the result FIN delivers. -/
structure RefSeq where
  phase : RefPhase
  index : Nat
  code : Nat
  bl : LenTable
  nc : LenTable
  codes : List Nat
  failure : Option (ErrCause × Nat × Nat)
  result : Option CanonResult
deriving DecidableEq, Repr

/-- `ASSIGN` moves `IDLE -> CHECK` (R243), with every working register clear. -/
def refStart : RefSeq where
  phase := .check
  index := 0
  code := 0
  bl := LenTable.zero
  nc := LenTable.zero
  codes := []
  failure := none
  result := none

/-- Stop at a failure: FIN is next (R243). -/
def refFail (cause : ErrCause) (index len : Nat) (q : RefSeq) : RefSeq :=
  { q with phase := .fin, failure := some (cause, index, len) }

/-- Enter ASGN, which takes one cycle per symbol: no cycle when there is none. -/
def refEnterAsgn (n : Nat) (q : RefSeq) : RefSeq :=
  if n = 0 then { q with phase := .fin } else { q with phase := .asgn, index := 0 }

/-- Enter GEN with `bl_count[0]` forced to 0, one cycle per `L = 1..mb`. -/
def refEnterGen (n mb : Nat) (q : RefSeq) : RefSeq :=
  if mb = 0 then refEnterAsgn n { q with bl := q.bl.put 0 0 }
  else { q with phase := .gen, index := 1, code := 0, bl := q.bl.put 0 0 }

/-- Enter COUNT, one cycle per symbol. -/
def refEnterCount (n mb : Nat) (q : RefSeq) : RefSeq :=
  if n = 0 then refEnterGen n mb q else { q with phase := .count, index := 0 }

/-- One cycle of the reference sequencer on the inputs `LEN_MEM`, `NSYM`, `MAXBITS` of an instance with `nMax` slots. -/
def refCycle (nMax : Nat) (mem : Memory 8) (nsym maxbits : Word) (q : RefSeq) : RefSeq :=
  match q.phase with
  | .idle => q
  | .check =>
    if nMax < nsym.toNat then refFail .nsymRange 0 0 q
    else if Config.mbMax < maxbits.toNat then refFail .maxbitsRange 0 0 q
    else refEnterCount nsym.toNat maxbits.toNat q
  | .count =>
    let len := (mem.read q.index).toNat
    if maxbits.toNat < len then refFail .lenRange q.index len q
    else
      let counted := { q with bl := q.bl.put len (q.bl.entry len + 1) }
      if q.index + 1 < nsym.toNat then { counted with index := q.index + 1 }
      else refEnterGen nsym.toNat maxbits.toNat counted
  | .gen =>
    let code := (q.code + q.bl.entry (q.index - 1)) <<< 1
    let generated := { q with code := code, nc := q.nc.put q.index code }
    if q.index < maxbits.toNat then { generated with index := q.index + 1 }
    else refEnterAsgn nsym.toNat generated
  | .asgn =>
    let len := (mem.read q.index).toNat
    let assigned :=
      if len ≠ 0 then
        { q with codes := q.codes ++ [q.nc.entry len], nc := q.nc.put len (q.nc.entry len + 1) }
      else { q with codes := q.codes ++ [0] }
    if q.index + 1 < nsym.toNat then { assigned with index := q.index + 1 } else { assigned with phase := .fin }
  | .fin =>
    { q with
      phase := .idle
      result := match q.failure with
        | some (cause, index, len) => some (.err cause index len)
        | none => some (.ok q.codes q.bl q.nc) }

/-- The sequencer `k` cycles after the `ASSIGN` write. -/
def refAfter (nMax : Nat) (mem : Memory 8) (nsym maxbits : Word) : Nat → RefSeq
  | 0 => refStart
  | k + 1 => refCycle nMax mem nsym maxbits (refAfter nMax mem nsym maxbits k)

/-- The cycle counts of R244's table, by outcome. -/
def refCycles (nsym maxbits : Word) : CanonResult → Nat
  | .ok _ _ _ => 2 * nsym.toNat + maxbits.toNat + 2
  | .err .lenRange j _ => j + 3
  | .err .nsymRange _ _ => 2
  | .err .maxbitsRange _ _ => 2
  | .err .illegalCmd _ _ => 0

end Sys2Proof.Machine
end

