-- ==== Sys2Proof/Safety.lean ====
section
/-! DEFINITION. What claims say about states and runs: the invariants (10_state.md R36, R43, R44), reachable states, what
a host can observe, and the code vocabulary of 42_assign_operation.md R173 and R174. -/

namespace Sys2Proof.Machine

/-! ## Invariants -/

/-- R44's conclusion: `CanonAssign` on the present inputs is a success and the result registers hold it. -/
def ResultsHold (s : State) : Prop :=
  ∃ codes bl nc, canonAssign s.cfg.nMax s.lenMem s.nsym s.maxbits = .ok codes bl nc
    ∧ (∀ i, i < s.nsym.toNat → (s.codeMem.read i).toNat = codes.getD i 0)
    ∧ ∀ L : LenIndex, (s.blCount.getD L.toNat 0#32).toNat = bl.entry L.toNat
        ∧ (s.nextCode.getD L.toNat 0#32).toNat = nc.entry L.toNat

/-- The invariant of the block: a legal instance (R9), memories in canonical form with no entry outside `0..N_MAX-1`
(R38, R39), one of the four visible states (R36), the error fields (R35, R37, R43, R201), the results (R44). -/
structure State.Inv (s : State) : Prop where
  cfgWf : s.cfg.wf = true
  lenWf : s.lenMem.wf = true
  lenWithin : s.lenMem.within s.cfg.nMax = true
  codeWf : s.codeMem.wf = true
  codeWithin : s.codeMem.within s.cfg.nMax = true
  oneVisible : visibleState s ≠ .mixed
  quietErr : s.err = false → s.errCode = 0#4 ∧ s.errIndex = 0#16 ∧ s.errLen = 0#8
  knownErr : s.err = true → ∃ cause, s.errCode = errCodeOf cause
    ∧ (cause ≠ .lenRange → s.errIndex = 0#16 ∧ s.errLen = 0#8)
  results : s.done = true → ResultsHold s

/-- The states of a run: an instance of a legal configuration after reset, given any inputs, and every state steps lead
to. -/
inductive Reachable : State → Prop where
  | reset (cfg : Config) (schedule : List Event) (h : cfg.wf = true) :
      Reachable { State.resetOf cfg with schedule := schedule }
  | step (s t : State) (hs : Reachable s) (h : Machine.step s = .next t) : Reachable t

/-! ## What the host observes -/

/-- The fields of R46 other than the result memories: every register and field a host read can always reach, the length
memory, and the parameters. -/
def SameControl (s t : State) : Prop :=
  s.cfg = t.cfg ∧ s.nsym = t.nsym ∧ s.maxbits = t.maxbits ∧ s.irqEn = t.irqEn ∧ s.busy = t.busy ∧ s.done = t.done
    ∧ s.err = t.err ∧ s.wign = t.wign ∧ s.errCode = t.errCode ∧ s.errIndex = t.errIndex ∧ s.errLen = t.errLen
    ∧ s.lenMem = t.lenMem

/-- Two states no host can tell apart: they agree on everything but results that the gates of R117, R118 and R121 hide
(all of them while `DONE = 0`, `CODE_MEM[i]` with `i >= NSYM` while `DONE = 1`). -/
def SameView (s t : State) : Prop :=
  SameControl s t ∧ s.schedule = t.schedule ∧ s.response = t.response
    ∧ (s.done = true →
        (∀ i, i < s.nsym.toNat → s.codeMem.read i = t.codeMem.read i)
          ∧ s.blCount = t.blCount ∧ s.nextCode = t.nextCode)

/-- The block's state is the same: every field but the inputs still to come and the port's answer. -/
def SameBlock (s t : State) : Prop :=
  SameControl s t ∧ s.codeMem = t.codeMem ∧ s.blCount = t.blCount ∧ s.nextCode = t.nextCode

/-- The instruction reads (its transaction's key has `W = 0`, R81). -/
def isRead (i : Instr) : Bool :=
  match (encode i).request with
  | .read _ => true
  | .write _ _ _ => false

/-! ## The table of visible-state transitions (41_commands.md R146) -/

/-- The row a transaction runs: a write to `CMD` runs the row of its command word (R108, R140). -/
def rowRun (v : VisibleState) : Instr → Instr
  | .wrCmd w => decodeCmd (v == .busy) w
  | i => i

/-- The visible state after a transaction, from R146's table; what the table does not list stays. -/
def nextVisible (v : VisibleState) (i : Instr) : VisibleState :=
  match rowRun v i with
  | .assign => if v = .idle ∨ v = .done then .busy else v
  | .clrstat => .idle
  | .illegalCmd _ => if v = .idle ∨ v = .done then .error else v
  | .wrNsym _ => if v = .done then .idle else v
  | .wrMaxbits _ => if v = .done then .idle else v
  | .wrLen _ _ => if v = .done then .idle else v
  | _ => v

/-- The rows of R146's table marked WIGN: the transaction is ignored because of the visible state (R207). -/
def setsWign (v : VisibleState) (i : Instr) : Bool :=
  match rowRun v i with
  | .assign => v = .error
  | .illegalCmd _ => v = .error
  | .cmdWhileBusy w => w ≠ 0#32
  | .wrNsym _ => v = .busy
  | .wrMaxbits _ => v = .busy
  | .wrLen _ _ => v = .busy
  | _ => false

/-- The instruction writes an input of the computation: `NSYM`, `MAXBITS` or a `LEN_MEM` entry (R32). -/
def writesInput : Instr → Bool
  | .wrNsym _ => true
  | .wrMaxbits _ => true
  | .wrLen _ _ => true
  | _ => false

/-- The row of the opcode table that a transaction runs in a state: the decoded row, and for a write to `CMD` the row of its
command word (R82, R108, R140). -/
def rowOf (s : State) (tr : Transaction) : Instr :=
  match decode s.cfg.nMax s.busy tr with
  | .wrCmd w => decodeCmd s.busy w
  | i => i

/-- The next input is the sequencer's turn, or there is none left (a BUSY block then completes, R246). -/
def sequencerNext (s : State) : Prop := s.schedule = [] ∨ ∃ rest, s.schedule = .sequencer :: rest

/-- The next input is the environment's reset (R230). -/
def resetNext (s : State) : Prop := ∃ rest, s.schedule = .reset :: rest

/-- The next input is a transaction whose row satisfies `p`. -/
def rowNext (s : State) (p : Instr → Prop) : Prop :=
  ∃ tr rest, s.schedule = .transaction tr :: rest ∧ p (rowOf s tr)

/-- The same state of an instance whose window stands at another base address (R60). -/
def rebase (base : Nat) (s : State) : State := { s with cfg := { s.cfg with ccaBase := base } }

/-- An order of turns in which each of the sequencer's turns comes after some of the host's: `g` of the host's, then one of the
sequencer's, for each `g` of the list. -/
def fairTurns (gaps : List Nat) : List Agent := gaps.flatMap fun g => List.replicate g .host ++ [.sequencer]

/-! ## Codes (R69, R173, R174) -/

/-- A code of length `L` as a bit string, "with bit `L-1` first and bit 0 last" (20_memory.md R69). -/
def codeString (L code : Nat) : List Bool := (List.range L).map fun k => code.testBit (L - 1 - k)

/-- The Kraft sum `K`: `sum over used symbols i < n of 2^(mb - LEN_MEM[i])` (R173). -/
def kraftSum (mb : Nat) : List Nat → Nat
  | [] => 0
  | len :: rest => (if len ≠ 0 then 2 ^ (mb - len) else 0) + kraftSum mb rest

/-- How many symbols of a list of lengths have length `L`: `c_L` of R170 for `L >= 1`. -/
def usedCount (lens : List Nat) (L : Nat) : Nat := lens.count L

/-- `sum over k in 1..L of c_k * 2^(L-k)`: R170's closed form of the returned `next_code[L]`. -/
def closedNextCode (lens : List Nat) (L : Nat) : Nat :=
  ((List.range L).map fun j => usedCount lens (j + 1) * 2 ^ (L - (j + 1))).sum

/-- `sum over k in 1..L-1 of c_k * 2^(L-k)`: R170's closed form of the starting code of length `L`. -/
def closedStartCode (lens : List Nat) (L : Nat) : Nat :=
  ((List.range (L - 1)).map fun j => usedCount lens (j + 1) * 2 ^ (L - (j + 1))).sum

end Sys2Proof.Machine
end

