-- ==== Sys2Proof/Certificates/Slice0/Obligations.lean ====
section
/-! DEFINITION. The statements for the provers. Each says which rule of spec/ it formalises; OBLIGATIONS.json lists them. -/

open Sys2Proof Sys2Proof.Machine

/-! ## Encoding (30_encoding.md) -/

/-- R82, R84, R140: decoding the transaction of a well-formed instruction gives it back, with every operand. -/
def Obligations.DecodeInvertsEncode : Prop :=
  ∀ (nMax : Nat) (busy : Bool) (i : Instr), i.wellFormed nMax = true → i.applies busy = true →
    decode nMax busy (encode i) = i

/-- R82 ("total on every request"): every transaction decodes to a well-formed instruction that encodes back to it. -/
def Obligations.EncodeInvertsDecode : Prop :=
  ∀ (nMax : Nat) (busy : Bool) (t : Transaction),
    encode (decode nMax busy t) = t ∧ (decode nMax busy t).wellFormed nMax = true
      ∧ (decode nMax busy t).applies busy = true

/-- R100: the order of the checks, said with the unmapped set of R64 and the address map of R63 instead of R82's
procedure. -/
def Obligations.RequestsDecodeInCheckOrder : Prop :=
  ∀ (nMax : Nat) (r : Request),
    (aligned r.off = false → decodeBus nMax r = .misaligned r)
      ∧ (aligned r.off = true → inUnmappedSet nMax r.off = true → decodeBus nMax r = .unmapped r)
      ∧ (aligned r.off = true → inUnmappedSet nMax r.off = false →
          ∃ t : Target, t.offset = r.off ∧ (∀ i, t = .len i ∨ t = .code i → i.toNat < nMax)
            ∧ match r with
              | .read _ => decodeBus nMax r = readRow t
              | .write off wdata wstrb =>
                decodeBus nMax r = if wstrb = fullStrobe then writeRow wdata t else .partialStrobe off wdata wstrb)

/-- The model's byte layout of transactions (DESIGN CHOICE, log 5): the decoder on the bytes of a transaction gives its
instruction. -/
def Obligations.TransactionBytesRoundTrip : Prop :=
  ∀ (nMax : Nat) (busy : Bool) (t : Transaction),
    decodeBytes nMax busy (transactionBytes t) = .ok (decode nMax busy t)

/-- R95 and 95_test_vectors.md section 6: keys and words the spec prints, one of each family. How a bare key becomes a
transaction (eight bytes, data 0, full strobes) is the model's choice (DESIGN CHOICE, log 5), and the instance is the one with
`N_MAX = 288` (DESIGN CHOICE, log 1). -/
def Obligations.PrintedKeysDecode : Prop :=
  decodeTableWord 24 0x140014 = some (.wrLen 5 0) ∧ decodeTableWord 24 0x00000C = some .rdStatus
    ∧ decodeTableWord 24 0x08001C = some (.rdCode 7) ∧ decodeTableWord 24 0x00004C = some (.rdBlCount 3)
    ∧ decodeTableWord 24 0x000090 = some (.rdNextCode 4) ∧ decodeTableWord 24 0x10000C = some (.wrStatus 0)
    ∧ decodeTableWord 24 0x100020 = some (.unmapped (.write 0x00020 0 0xF))
    ∧ decodeTableWord 24 0x00000E = some (.misaligned (.read 0x0000E)) ∧ decodeTableWord 32 0x00000001 = some .assign

/-- R60: the addresses of the window are `CCA_BASE + off`, and no other address is the block's. -/
def Obligations.WindowAddressesReachTheirOffset : Prop :=
  ∀ (cfg : Config) (addr : Nat) (off : Offset), windowOffset cfg addr = some off ↔ addr = cfg.ccaBase + off.toNat

/-! ## A step (00_scope.md R13, 20_memory.md R71) -/

/-- A step whose next input is a transaction runs the decoded instruction, on the state without that input. -/
def Obligations.StepRunsTheDecodedTransaction : Prop :=
  ∀ (s : State) (t : Transaction) (rest : List Event), s.schedule = .transaction t :: rest →
    step s = exec (decode s.cfg.nMax s.busy t) { s with schedule := rest }

/-- R160 ("enabled exactly when `STATUS.BUSY = 1`"), R246, R247: the sequencer's turn runs the completion step while BUSY
and nothing otherwise; so does a step with no input left. The schedule is the model's own (DESIGN CHOICE, log 3). -/
def Obligations.SequencerRunsOnlyWhileBusy : Prop :=
  ∀ (s : State) (rest : List Event),
    (s.schedule = .sequencer :: rest → s.busy = true → step s = .next (complete { s with schedule := rest }))
      ∧ (s.schedule = .sequencer :: rest → s.busy = false → step s = .next { s with schedule := rest })
      ∧ (s.schedule = [] → s.busy = true → step s = .next (complete s))
      ∧ (s.schedule = [] → s.busy = false → step s = .next s)

/-- R46: every step of the block is a total function: it answers a next state, in every state and for every input. -/
def Obligations.EveryStepAnswersNext : Prop :=
  ∀ s : State, ∃ t, step s = .next t

/-! ## Reads (40_host_access.md) -/

/-- R105, R106, R107 (R24, R25): the constants, and the write-only `CMD`. -/
def Obligations.ConstantReadsAnswer : Prop :=
  ∀ s : State,
    exec .rdId s = .next { s with response := some (.read 0x43434131#32 .okay) }
      ∧ exec .rdParam s =
          .next { s with response := some (.read (0x01#8 ++ 0x0F#8 ++ BitVec.ofNat 16 s.cfg.nMax) .okay) }
      ∧ exec .rdCmd s = .next { s with response := some (.read 0#32 .okay) }

/-- R109, R89: `STATUS` shows each field at its bits, reserved bits 0, and no state changes. -/
def Obligations.StatusReadShowsItsFields : Prop :=
  ∀ s : State, ∃ v : Word, exec .rdStatus s = .next { s with response := some (.read v .okay) }
    ∧ v.getLsbD 0 = s.busy ∧ v.getLsbD 1 = s.done ∧ v.getLsbD 2 = s.err ∧ v.getLsbD 3 = s.wign
    ∧ v.extractLsb' 4 4 = 0#4 ∧ v.extractLsb' 8 4 = s.errCode ∧ v.extractLsb' 12 20 = 0#20

/-- R116: `ERR_INFO` is `{8'b0, LEN, INDEX}`, and no state changes. -/
def Obligations.ErrInfoReadShowsItsFields : Prop :=
  ∀ s : State, ∃ v : Word, exec .rdErrInfo s = .next { s with response := some (.read v .okay) }
    ∧ v.extractLsb' 0 16 = s.errIndex ∧ v.extractLsb' 16 8 = s.errLen ∧ v.extractLsb' 24 8 = 0#8

/-- R110, R112, R114: the configuration registers read back whole, and no state changes. -/
def Obligations.ConfigurationReadsAnswer : Prop :=
  ∀ s : State,
    exec .rdNsym s = .next { s with response := some (.read s.nsym .okay) }
      ∧ exec .rdMaxbits s = .next { s with response := some (.read s.maxbits .okay) }
      ∧ exec .rdIrqEn s = .next { s with response := some (.read (if s.irqEn then 1#32 else 0#32) .okay) }

/-- R117, R118: the per-length arrays read as the register while `DONE = 1` and as 0 otherwise; `BL_COUNT[0]` reads 0, and
while `DONE = 1` `NEXT_CODE[L]` is the starting code of R164 plus the count, the value after the assignment. -/
def Obligations.TableReadsAreGated : Prop :=
  ∀ (s : State) (L : LenIndex),
    exec (.rdBlCount L) s =
        .next { s with response := some (.read (if s.done then s.blCount.getD L.toNat 0#32 else 0#32) .okay) }
      ∧ exec (.rdNextCode L) s =
        .next { s with response := some (.read (if s.done then s.nextCode.getD L.toNat 0#32 else 0#32) .okay) }
      ∧ (s.Inv → exec (.rdBlCount 0#4) s = .next { s with response := some (.read 0#32 .okay) })
      ∧ (s.Inv → s.done = true → 1 ≤ L.toNat → L.toNat ≤ s.maxbits.toNat →
          (s.nextCode.getD L.toNat 0#32).toNat =
            (startCodes (lengthCounts (lengthsOf s.lenMem s.nsym.toNat)) s.maxbits.toNat).entry L.toNat
              + (s.blCount.getD L.toNat 0#32).toNat)

/-- R119: `LEN[i]` reads the entry zero-extended, in every visible state, and no state changes. -/
def Obligations.LenReadAnswers : Prop :=
  ∀ (s : State) (i : SymIndex), i.toNat < s.cfg.nMax →
    ∃ v : Word, exec (.rdLen i) s = .next { s with response := some (.read v .okay) }
      ∧ v.toNat = (s.lenMem.read i.toNat).toNat

/-- R121: `CODE[i]` reads the code while `DONE = 1` and `i < NSYM`, and 0 otherwise; a symbol of length 0 reads 0. -/
def Obligations.CodeReadIsGated : Prop :=
  ∀ (s : State) (i : SymIndex), i.toNat < s.cfg.nMax →
    exec (.rdCode i) s =
        .next { s with response := some (.read
          (if s.done = true ∧ i.toNat < s.nsym.toNat then s.codeMem.read i.toNat else 0#32) .okay) }
      ∧ (s.Inv → s.lenMem.read i.toNat = 0#8 →
          exec (.rdCode i) s = .next { s with response := some (.read 0#32 .okay) })

/-- R66: no read of any offset, mapped or not, changes any state: a step on it only puts the answer on the port. -/
def Obligations.ReadsChangeNothing : Prop :=
  ∀ (s t : State) (off : Offset) (rest : List Event),
    s.schedule = .transaction (.bus (.read off)) :: rest → step s = .next t →
      ∃ v resp, t = { s with schedule := rest, response := some (.read v resp) }

/-! ## Writes (40_host_access.md) -/

/-- R111, R113: a write of `NSYM` or `MAXBITS` stores the full word and clears `DONE`, or while BUSY is ignored and sets
`WIGN`; nothing else changes. -/
def Obligations.InputRegisterWrites : Prop :=
  ∀ (s : State) (w : Word),
    (s.busy = false →
        exec (.wrNsym w) s = .next { s with nsym := w, done := false, response := some (.write .okay) }
          ∧ exec (.wrMaxbits w) s = .next { s with maxbits := w, done := false, response := some (.write .okay) })
      ∧ (s.busy = true →
        exec (.wrNsym w) s = .next { s with wign := true, response := some (.write .okay) }
          ∧ exec (.wrMaxbits w) s = .next { s with wign := true, response := some (.write .okay) })

/-- R120, R85: a write of `LEN[i]` stores the word saturated to 255 and clears `DONE`, or while BUSY is ignored and sets
`WIGN`; every other entry reads as before, and the memory stays in canonical form. -/
def Obligations.LenWriteStoresSaturated : Prop :=
  ∀ (s : State) (i : SymIndex) (w : Word), s.lenMem.wf = true → i.toNat < s.cfg.nMax →
    (s.busy = true → exec (.wrLen i w) s = .next { s with wign := true, response := some (.write .okay) })
      ∧ (s.busy = false →
          ∃ m : Memory 8,
            exec (.wrLen i w) s = .next { s with lenMem := m, done := false, response := some (.write .okay) }
              ∧ m.wf = true ∧ (m.read i.toNat).toNat = min w.toNat 255
              ∧ ∀ j, j ≠ i.toNat → m.read j = s.lenMem.read j)

/-- R115: a write of `IRQ_EN` stores bit 0 in every visible state and changes nothing else; the interrupt output has its new
value at once. -/
def Obligations.IrqEnWriteStoresBitZero : Prop :=
  ∀ (s : State) (w : Word), ∃ t, exec (.wrIrqEn w) s = .next t
    ∧ t = { s with irqEn := w.getLsbD 0, response := some (.write .okay) }
    ∧ irq t = (w.getLsbD 0 && (s.done || s.err))

/-- R104: a write to a read-only place is answered `ERROR` and changes nothing. -/
def Obligations.ReadOnlyWritesAreRefused : Prop :=
  ∀ (s : State) (L : LenIndex) (i : SymIndex) (w : Word) (j : Instr),
    j ∈ [Instr.wrId w, .wrParam w, .wrStatus w, .wrErrInfo w, .wrBlCount L w, .wrNextCode L w, .wrCode i w] →
      exec j s = .next { s with response := some (.write .error) }

/-- R101, R102, R103: the refused rows answer `ERROR`, a read with `rdata = 0`, and change nothing. -/
def Obligations.RefusedRowsAnswerError : Prop :=
  ∀ (s : State) (off : Offset) (w : Word) (wstrb : Strobe),
    exec (.misaligned (.read off)) s = .next { s with response := some (.read 0#32 .error) }
      ∧ exec (.misaligned (.write off w wstrb)) s = .next { s with response := some (.write .error) }
      ∧ exec (.unmapped (.read off)) s = .next { s with response := some (.read 0#32 .error) }
      ∧ exec (.unmapped (.write off w wstrb)) s = .next { s with response := some (.write .error) }
      ∧ exec (.partialStrobe off w wstrb) s = .next { s with response := some (.write .error) }

/-- R101, R102, R103 on the port: a misaligned request, one to an offset of R64's set, and a write without all strobes are
answered `ERROR`, whatever the block's state, and change no state. -/
def Obligations.RefusedRequestsChangeNothing : Prop :=
  ∀ (s : State) (r : Request) (rest : List Event), s.schedule = .transaction (.bus r) :: rest →
    (aligned r.off = false ∨ inUnmappedSet s.cfg.nMax r.off = true
        ∨ ∃ off w wstrb, r = .write off w wstrb ∧ wstrb ≠ 0xF#4) →
      step s = .next { s with
        schedule := rest
        response := some (match r with
          | .read _ => .read 0#32 .error
          | .write _ _ _ => .write .error) }

/-- R100, R208: a transaction answered `ERROR`, of whatever row, changes no state at all, and a read so answered returns
0. -/
def Obligations.ErrorAnswerMeansNoChange : Prop :=
  ∀ (i : Instr) (s t : State), exec i s = .next t →
    (∀ v, t.response = some (.read v .error) → v = 0#32 ∧ t = { s with response := t.response })
      ∧ (t.response = some (.write .error) → t = { s with response := t.response })

/-! ## Commands (41_commands.md) -/

/-- R108, R140: a write to `CMD` answers `OKAY` for every word and does what the word's command row does; on the port it is
the command. -/
def Obligations.CmdWriteRunsItsCommandRow : Prop :=
  ∀ (s : State) (w : Word) (rest : List Event),
    (∃ t, exec (.wrCmd w) s = .next t ∧ exec (decodeCmd s.busy w) s = .next t ∧ t.response = some (.write .okay))
      ∧ step { s with schedule := .transaction (.bus (.write 0x00008#20 w 0xF#4)) :: rest } =
          step { s with schedule := .transaction (.cmd w) :: rest }

/-- R142: `NOP` changes nothing, in every visible state. -/
def Obligations.NopChangesNothing : Prop :=
  ∀ s : State, exec .nop s = .next { s with response := some (.write .okay) }

/-- R143: `ASSIGN` starts an operation, or is refused in the ERROR state; from DONE the completion step gives the same
results again; with `NSYM = 0` the operation ends in DONE. -/
def Obligations.AssignStartsOrIsRefused : Prop :=
  ∀ s : State, s.busy = false →
    (s.err = false →
        exec .assign s = .next { s with done := false, busy := true, response := some (.write .okay) })
      ∧ (s.err = true → exec .assign s = .next { s with wign := true, response := some (.write .okay) })
      ∧ (∀ t, s.Inv → s.done = true → exec .assign s = .next t →
          sequencerTurn t = { s with response := some (.write .okay) })
      ∧ (∀ t, s.err = false → s.nsym = 0#32 → s.maxbits.toNat ≤ 15 → exec .assign s = .next t →
          (sequencerTurn t).done = true ∧ (sequencerTurn t).busy = false ∧ (sequencerTurn t).err = false)

/-- R144: `CLRSTAT` clears the status and the error fields and nothing else; the visible state becomes IDLE, the interrupt
output falls. -/
def Obligations.ClrstatClearsStatus : Prop :=
  ∀ s : State, s.busy = false → ∃ t, exec .clrstat s = .next t
    ∧ t = { s with done := false, err := false, errCode := 0#4, wign := false, errIndex := 0#16, errLen := 0#8,
                   response := some (.write .okay) }
    ∧ visibleState t = .idle ∧ irq t = false

/-- R145: a word that is no command raises `ILLEGAL_CMD` from IDLE or DONE, and from ERROR sets `WIGN` only. -/
def Obligations.IllegalCommandRaisesOrIsIgnored : Prop :=
  ∀ (s : State) (w : Word), s.busy = false →
    (s.err = false →
        exec (.illegalCmd w) s =
          .next { s with err := true, errCode := 4#4, errIndex := 0#16, errLen := 0#8, done := false,
                         response := some (.write .okay) })
      ∧ (s.err = true → exec (.illegalCmd w) s = .next { s with wign := true, response := some (.write .okay) })
      ∧ (w ≠ 0#32 → w ≠ 1#32 → w ≠ 2#32 → rowOf s (.cmd w) = .illegalCmd w)

/-- R141: while BUSY every word but `NOP` sets `WIGN`, and nothing else changes. -/
def Obligations.CommandWhileBusyOnlySetsWign : Prop :=
  ∀ (s : State) (w : Word), s.busy = true →
    rowOf s (.cmd w) = .cmdWhileBusy w
      ∧ exec (.cmdWhileBusy w) s =
          .next { s with wign := if w = 0#32 then s.wign else true, response := some (.write .okay) }

/-- R146: the table of visible-state transitions: what every transaction makes of the visible state and of `WIGN`, what the
completion step and reset make of the visible state. -/
def Obligations.VisibleStateTransitions : Prop :=
  (∀ (i : Instr) (s t : State), visibleState s ≠ .mixed → i.wellFormed s.cfg.nMax = true → i.applies s.busy = true →
      exec i s = .next t →
        visibleState t = nextVisible (visibleState s) i
          ∧ t.wign = (if rowRun (visibleState s) i = .clrstat then false
              else s.wign || setsWign (visibleState s) i))
    ∧ (∀ s : State, visibleState s = .busy →
        visibleState (sequencerTurn s) =
          match canonAssign s.cfg.nMax s.lenMem s.nsym s.maxbits with
          | .ok _ _ _ => .done
          | .err _ _ _ => .error)
    ∧ ∀ s : State, visibleState (resetBlock s) = .idle

/-! ## The function (42_assign_operation.md) -/

/-- R209 (R161, R162): an operation reports exactly one cause, the first that applies in this order; with legal ranges and
lengths it succeeds, whatever the Kraft sum (R172). -/
def Obligations.ErrorPriority : Prop :=
  ∀ (nMax : Nat) (mem : Memory 8) (nsym maxbits : Word),
    (nMax < nsym.toNat → canonAssign nMax mem nsym maxbits = .err .nsymRange 0 0)
      ∧ (nsym.toNat ≤ nMax → 15 < maxbits.toNat → canonAssign nMax mem nsym maxbits = .err .maxbitsRange 0 0)
      ∧ (nsym.toNat ≤ nMax → maxbits.toNat ≤ 15 →
          ∀ i, i < nsym.toNat → maxbits.toNat < (mem.read i).toNat →
            (∀ j, j < i → (mem.read j).toNat ≤ maxbits.toNat) →
              canonAssign nMax mem nsym maxbits = .err .lenRange i (mem.read i).toNat)
      ∧ (nsym.toNat ≤ nMax → maxbits.toNat ≤ 15 → (∀ i, i < nsym.toNat → (mem.read i).toNat ≤ maxbits.toNat) →
          ∃ codes bl nc, canonAssign nMax mem nsym maxbits = .ok codes bl nc ∧ codes.length = nsym.toNat)

/-- R170: the closed forms of the counts, the starting codes, the returned `next_code`, and the code of the `j`-th used
symbol of a length. -/
def Obligations.ClosedForms : Prop :=
  ∀ (nMax : Nat) (mem : Memory 8) (nsym maxbits : Word) (codes : List Nat) (bl nc : LenTable),
    canonAssign nMax mem nsym maxbits = .ok codes bl nc →
      (∀ L, 1 ≤ L → L ≤ maxbits.toNat →
          bl.entry L = usedCount (lengthsOf mem nsym.toNat) L
            ∧ (startCodes bl maxbits.toNat).entry L = closedStartCode (lengthsOf mem nsym.toNat) L
            ∧ nc.entry L = closedStartCode (lengthsOf mem nsym.toNat) L + bl.entry L
            ∧ nc.entry L = closedNextCode (lengthsOf mem nsym.toNat) L)
        ∧ ∀ i, i < nsym.toNat → mem.read i ≠ 0#8 →
            codes.getD i 0 = closedStartCode (lengthsOf mem nsym.toNat) (mem.read i).toNat
              + usedCount (lengthsOf mem i) (mem.read i).toNat

/-- R166, and the entries R163 and R164 leave at 0: an unused symbol gets code 0; entry 0 and the entries above `maxbits`
of both arrays are 0. -/
def Obligations.UnusedEntriesAreZero : Prop :=
  ∀ (nMax : Nat) (mem : Memory 8) (nsym maxbits : Word) (codes : List Nat) (bl nc : LenTable),
    canonAssign nMax mem nsym maxbits = .ok codes bl nc →
      (∀ i, i < nsym.toNat → mem.read i = 0#8 → codes.getD i 0 = 0)
        ∧ bl.entry 0 = 0 ∧ nc.entry 0 = 0
        ∧ ∀ L, maxbits.toNat < L → bl.entry L = 0 ∧ nc.entry L = 0

/-- R171: no quantity of the function exceeds 30 bits, so the 32-bit registers hold every value exactly, for any input. -/
def Obligations.NoValueExceedsItsRegister : Prop :=
  ∀ (nMax : Nat) (mem : Memory 8) (nsym maxbits : Word) (codes : List Nat) (bl nc : LenTable), nMax ≤ 65535 →
    canonAssign nMax mem nsym maxbits = .ok codes bl nc →
      (∀ L, bl.entry L ≤ nsym.toNat)
        ∧ (∀ L, 1 ≤ L → L ≤ maxbits.toNat →
            (startCodes bl maxbits.toNat).entry L ≤ 2 ^ (L - 1) * ((List.range L).map bl.entry).sum
              ∧ (startCodes bl maxbits.toNat).entry L + bl.entry L = nc.entry L
              ∧ nc.entry L ≤ 2 ^ (L - 1) * nsym.toNat ∧ nc.entry L < 2 ^ 30)
        ∧ ∀ i, i < nsym.toNat → mem.read i ≠ 0#8 → codes.getD i 0 < nc.entry (mem.read i).toNat

/-- R173: the last `next_code` is the Kraft sum, in the function's result and in the register while `DONE = 1`; so the register
tells whether the inequality holds and whether the code is complete; when the sum does not exceed `2^mb` every code fits in
its length, in the function's result and in `CODE_MEM`; for `mb = 0` the sum is 0. -/
def Obligations.KraftSumIsTheLastNextCode : Prop :=
  (∀ (nMax : Nat) (mem : Memory 8) (nsym maxbits : Word) (codes : List Nat) (bl nc : LenTable),
    canonAssign nMax mem nsym maxbits = .ok codes bl nc →
      (1 ≤ maxbits.toNat → nc.entry maxbits.toNat = kraftSum maxbits.toNat (lengthsOf mem nsym.toNat))
        ∧ (maxbits.toNat = 0 → kraftSum maxbits.toNat (lengthsOf mem nsym.toNat) = 0)
        ∧ (kraftSum maxbits.toNat (lengthsOf mem nsym.toNat) ≤ 2 ^ maxbits.toNat →
            ∀ i, i < nsym.toNat → mem.read i ≠ 0#8 → codes.getD i 0 < 2 ^ (mem.read i).toNat))
    ∧ ∀ (s : State) (K : Nat), s.Inv → s.done = true →
        kraftSum s.maxbits.toNat (lengthsOf s.lenMem s.nsym.toNat) = K →
          (1 ≤ s.maxbits.toNat → (s.nextCode.getD s.maxbits.toNat 0#32).toNat = K
            ∧ (K ≤ 2 ^ s.maxbits.toNat ↔ (s.nextCode.getD s.maxbits.toNat 0#32).toNat ≤ 2 ^ s.maxbits.toNat)
            ∧ (K = 2 ^ s.maxbits.toNat ↔ (s.nextCode.getD s.maxbits.toNat 0#32).toNat = 2 ^ s.maxbits.toNat))
          ∧ (s.maxbits.toNat = 0 → K = 0)
          ∧ (K ≤ 2 ^ s.maxbits.toNat → ∀ i, i < s.nsym.toNat → s.lenMem.read i ≠ 0#8 →
              (s.codeMem.read i).toNat < 2 ^ (s.lenMem.read i).toNat)

/-- R174 property 1: two symbols of equal nonzero length, with none of that length between them, have consecutive codes. -/
def Obligations.EqualLengthsAreConsecutive : Prop :=
  ∀ (nMax : Nat) (mem : Memory 8) (nsym maxbits : Word) (codes : List Nat) (bl nc : LenTable) (a b : Nat),
    canonAssign nMax mem nsym maxbits = .ok codes bl nc → a < b → b < nsym.toNat →
      mem.read a ≠ 0#8 → mem.read b = mem.read a → (∀ k, a < k → k < b → mem.read k ≠ mem.read a) →
        codes.getD b 0 = codes.getD a 0 + 1

/-- R174 property 2: for Kraft-satisfying lengths no code, as the bit string of R69, is a prefix of another symbol's. -/
def Obligations.CodesArePrefixFree : Prop :=
  ∀ (nMax : Nat) (mem : Memory 8) (nsym maxbits : Word) (codes : List Nat) (bl nc : LenTable) (a b : Nat),
    canonAssign nMax mem nsym maxbits = .ok codes bl nc →
      kraftSum maxbits.toNat (lengthsOf mem nsym.toNat) ≤ 2 ^ maxbits.toNat →
        a < nsym.toNat → b < nsym.toNat → a ≠ b → mem.read a ≠ 0#8 → mem.read b ≠ 0#8 →
          ¬ codeString (mem.read a).toNat (codes.getD a 0) <+: codeString (mem.read b).toNat (codes.getD b 0)

/-- R167: the function reads no `LEN_MEM[i]` with `i >= n`. -/
def Obligations.ResultIgnoresEntriesBeyondNsym : Prop :=
  ∀ (nMax : Nat) (mem mem' : Memory 8) (nsym maxbits : Word), (∀ i, i < nsym.toNat → mem.read i = mem'.read i) →
    canonAssign nMax mem nsym maxbits = canonAssign nMax mem' nsym maxbits

/-! ## The completion step -/

/-- R168: a successful completion writes the codes, the two arrays, `BUSY` and `DONE`, each value exactly, and nothing
else. -/
def Obligations.SuccessfulCompletionCommits : Prop :=
  ∀ (s : State) (rest : List Event) (codes : List Nat) (bl nc : LenTable), s.Inv → s.busy = true →
    s.schedule = .sequencer :: rest → canonAssign s.cfg.nMax s.lenMem s.nsym s.maxbits = .ok codes bl nc →
      ∃ (m : Memory 32) (blr ncr : Vector Word 16) (t : State), step s = .next t
        ∧ t = { s with schedule := rest, codeMem := m, blCount := blr, nextCode := ncr, busy := false, done := true }
        ∧ (∀ i, i < s.nsym.toNat → (m.read i).toNat = codes.getD i 0)
        ∧ (∀ i, s.nsym.toNat ≤ i → m.read i = s.codeMem.read i)
        ∧ (∀ L : LenIndex, (blr.getD L.toNat 0#32).toNat = bl.entry L.toNat
            ∧ (ncr.getD L.toNat 0#32).toNat = nc.entry L.toNat)
        ∧ t.err = false ∧ irq t = s.irqEn

/-- R169, R205: a failed completion writes the error fields without losing a bit, clears `BUSY`, and writes no result; the
visible state is ERROR. -/
def Obligations.FailedCompletionRecordsItsError : Prop :=
  ∀ (s : State) (rest : List Event) (cause : ErrCause) (index len : Nat), s.cfg.wf = true → s.busy = true →
    s.schedule = .sequencer :: rest →
      canonAssign s.cfg.nMax s.lenMem s.nsym s.maxbits = .err cause index len →
        ∃ t, step s = .next t
          ∧ t = { s with
              schedule := rest, busy := false, done := false, err := true, errCode := errCodeOf cause,
              errIndex := BitVec.ofNat 16 index, errLen := BitVec.ofNat 8 len }
          ∧ t.errIndex.toNat = index ∧ t.errLen.toNat = len ∧ visibleState t = .error ∧ irq t = s.irqEn

/-- R41, R40: while `DONE = 1`, `BL_COUNT_R[L]` is the number of symbols of length `L` and `NEXT_CODE_R[L]` the closed form
of R170, for `1 <= L <= maxbits`, and both are 0 elsewhere. -/
def Obligations.ResultRegistersHoldCountsAndNextCodes : Prop :=
  ∀ (s : State) (L : LenIndex), s.Inv → s.done = true →
    (1 ≤ L.toNat ∧ L.toNat ≤ s.maxbits.toNat →
        (s.blCount.getD L.toNat 0#32).toNat = usedCount (lengthsOf s.lenMem s.nsym.toNat) L.toNat
          ∧ (s.nextCode.getD L.toNat 0#32).toNat = closedNextCode (lengthsOf s.lenMem s.nsym.toNat) L.toNat)
      ∧ (¬ (1 ≤ L.toNat ∧ L.toNat ≤ s.maxbits.toNat) →
        s.blCount.getD L.toNat 0#32 = 0#32 ∧ s.nextCode.getD L.toNat 0#32 = 0#32)

/-! ## Rules of the whole machine -/

/-- R31: `BUSY` is set only by an accepted `ASSIGN` and cleared only by the completion step and by reset. That a step with no
input left is the completion step is the model's choice (DESIGN CHOICE, log 3). -/
def Obligations.OnlyAssignSetsBusy : Prop :=
  ∀ s t : State, step s = .next t →
    (s.busy = false → (t.busy = true ↔ s.err = false ∧ rowNext s (· = .assign)))
      ∧ (s.busy = true → (t.busy = false ↔ sequencerNext s ∨ resetNext s))

/-- R32: `DONE` is set only by a successful completion; it is cleared by an accepted `ASSIGN`, `CLRSTAT`, an accepted input
write, an error event (an illegal command, in the DONE state) and reset, and by nothing else. That a step with no input left is the
completion step is the model's choice (DESIGN CHOICE, log 3). -/
def Obligations.WhatSetsAndClearsDone : Prop :=
  ∀ s t : State, s.Inv → step s = .next t →
    (s.done = false →
        (t.done = true ↔ s.busy = true ∧ sequencerNext s
          ∧ ∃ codes bl nc, canonAssign s.cfg.nMax s.lenMem s.nsym s.maxbits = .ok codes bl nc))
      ∧ (s.done = true →
        (t.done = false ↔ resetNext s
          ∨ rowNext s fun i => i = .assign ∨ i = .clrstat ∨ writesInput i = true ∨ ∃ w, i = .illegalCmd w))

/-- R33, R209, R211: `ERR` is set only by a failed completion and by an illegal command; only `CLRSTAT` and reset clear it;
while it is 1 the recorded error is kept. That a step with no input left is the completion step is the model's choice (DESIGN
CHOICE, log 3). -/
def Obligations.FirstErrorIsKeptUntilClrstat : Prop :=
  ∀ s t : State, s.Inv → step s = .next t →
    (s.err = false →
        (t.err = true ↔ (rowNext s fun i => ∃ w, i = .illegalCmd w)
          ∨ (s.busy = true ∧ sequencerNext s
              ∧ ∃ cause index len, canonAssign s.cfg.nMax s.lenMem s.nsym s.maxbits = .err cause index len)))
      ∧ (s.err = true →
        (t.err = false ↔ resetNext s ∨ rowNext s (· = .clrstat))
          ∧ (t.err = true → t.errCode = s.errCode ∧ t.errIndex = s.errIndex ∧ t.errLen = s.errLen))

/-- R34, R207: `WIGN` is set exactly by the four kinds of ignored write, which change no other field; it is cleared only by
`CLRSTAT` and reset. -/
def Obligations.WignIsSticky : Prop :=
  ∀ s t : State, step s = .next t →
    (s.wign = true → (t.wign = false ↔ resetNext s ∨ rowNext s (· = .clrstat)))
      ∧ (s.wign = false →
        (t.wign = true ↔ rowNext s fun i =>
            (s.busy = true ∧ writesInput i = true) ∨ (∃ w, w ≠ 0#32 ∧ i = .cmdWhileBusy w)
              ∨ (s.err = true ∧ (i = .assign ∨ ∃ w, i = .illegalCmd w)))
          ∧ (t.wign = true → ∃ rest, s.schedule.tail = rest
              ∧ t = { s with schedule := rest, wign := true, response := some (.write .okay) } ∧ irq t = irq s))

/-- R39, R40, R41: the result memories are written only by a successful completion step (and cleared by reset). That a step
with no input left may be that step is the model's choice (DESIGN CHOICE, log 3). -/
def Obligations.OnlyCompletionWritesResults : Prop :=
  ∀ s t : State, step s = .next t →
    (t.codeMem = s.codeMem ∧ t.blCount = s.blCount ∧ t.nextCode = s.nextCode) ∨ resetNext s
      ∨ (s.busy = true ∧ sequencerNext s
          ∧ ∃ codes bl nc, canonAssign s.cfg.nMax s.lenMem s.nsym s.maxbits = .ok codes bl nc)

/-- R160 (R122): as long as the block stays BUSY and is not reset, the inputs are those the operation started with, and so is
what the completion step will compute. -/
def Obligations.InputsAreFrozenWhileBusy : Prop :=
  ∀ (k : Nat) (s t : State), Event.reset ∉ s.schedule →
    (∀ j, j ≤ k → ∃ u, Host.Core.run core j s = .next u ∧ State.busy u = true) →
      Host.Core.run core k s = .next t →
        t.lenMem = s.lenMem ∧ t.nsym = s.nsym ∧ t.maxbits = s.maxbits
          ∧ canonAssign t.cfg.nMax t.lenMem t.nsym t.maxbits = canonAssign s.cfg.nMax s.lenMem s.nsym s.maxbits

/-- R214: the events that lower `irq`, that it is kept by reads, and that enabling it while DONE or ERR is 1 raises it at
once. -/
def Obligations.IrqFollowsItsCauses : Prop :=
  ∀ s : State, s.Inv → irq s = true →
    (∀ t, exec (.wrIrqEn 0#32) s = .next t → irq t = false ∧ t.done = s.done ∧ t.err = s.err)
      ∧ (∀ t, exec .clrstat s = .next t → irq t = false)
      ∧ (∀ t, s.done = true → exec .assign s = .next t → irq t = false)
      ∧ (∀ t i, s.done = true → writesInput i = true → i.wellFormed s.cfg.nMax = true → exec i s = .next t →
          irq t = false)
      ∧ irq (resetBlock s) = false
      ∧ (∀ t i, isRead i = true → exec i s = .next t → irq t = true)
      ∧ ∀ t w, exec (.wrIrqEn w) { s with irqEn := false } = .next t → irq t = w.getLsbD 0

/-- R231, R232: reset, enabled in every state, sets every element to 0, abandons a running operation, and leaves the
parameters and the inputs still to come. -/
def Obligations.ResetClearsEverything : Prop :=
  ∀ (s : State) (rest : List Event), s.schedule = .reset :: rest →
    ∃ t, step s = .next t ∧ t.cfg = s.cfg ∧ t.schedule = rest ∧ t.response = none
      ∧ t.nsym = 0#32 ∧ t.maxbits = 0#32 ∧ t.irqEn = false ∧ t.busy = false ∧ t.done = false ∧ t.err = false
      ∧ t.wign = false ∧ t.errCode = 0#4 ∧ t.errIndex = 0#16 ∧ t.errLen = 0#8
      ∧ (∀ i, t.lenMem.read i = 0#8) ∧ (∀ i, t.codeMem.read i = 0#32)
      ∧ (∀ L, t.blCount.getD L 0#32 = 0#32 ∧ t.nextCode.getD L 0#32 = 0#32)
      ∧ visibleState t = .idle ∧ irq t = false

/-- R246 with log 3: a BUSY block whose schedule holds no reset is out of BUSY after at most one step more than it has
inputs. -/
def Obligations.BusyBlockCompletes : Prop :=
  ∀ s : State, s.busy = true → Event.reset ∉ s.schedule →
    ∃ k t, k ≤ s.schedule.length + 1 ∧ Host.Core.run core k s = .next t ∧ State.busy t = false

/-- R72, R94: after an accepted `ASSIGN`, every poll of `wait_idle` before the completion step reads `BUSY = 1`, the one
after it reads `BUSY = 0`, and then the operation's end is in `STATUS`. That `wait_idle` is these inputs, for some number of
polls, is an inference (DEDUCED, log 14). -/
def Obligations.WaitIdleEndsWithTheOperation : Prop :=
  ∀ (s : State) (polls : Nat) (rest : List Event), s.Inv → s.busy = true → s.schedule = waitIdle polls ++ rest →
    (∀ k, k < polls → ∃ (u : State) (v : Word), Host.Core.run core (k + 1) s = .next u
        ∧ u.response = some (.read v .okay) ∧ v.getLsbD 0 = true)
      ∧ ∃ (u : State) (v : Word), Host.Core.run core (polls + 2) s = .next u ∧ u.schedule = rest ∧ u.busy = false
        ∧ u.response = some (.read v .okay) ∧ v.getLsbD 0 = false
        ∧ (v.getLsbD 1 = true ↔
            ∃ codes bl nc, canonAssign s.cfg.nMax s.lenMem s.nsym s.maxbits = .ok codes bl nc)
        ∧ (v.getLsbD 2 = true ↔
            ∃ cause index len, canonAssign s.cfg.nMax s.lenMem s.nsym s.maxbits = .err cause index len)

/-- R121 ("what a host reads depends only on the current inputs"): two states of the invariant that agree on everything but
the result memories answer every read alike. -/
def Obligations.ReadsDependOnlyOnCurrentInputs : Prop :=
  ∀ (s t s' t' : State) (i : Instr), s.Inv → t.Inv → SameControl s t → isRead i = true →
    exec i s = .next s' → exec i t = .next t' → s'.response = t'.response

/-- 93_implementation_defined.md section 1 (R42, R169): whatever stands in the result memories where the gates hide it, no
run can tell: a step from states of the same view leads to states of the same view, and the premises hold again (`Inv` of the
one state by StepKeepsTheInvariant), so that it says so of every run. -/
def Obligations.HiddenResultsAreUnobservable : Prop :=
  ∀ s t s' : State, s.Inv → t.codeMem.wf = true → SameView s t → step s = .next s' →
    ∃ t', step t = .next t' ∧ SameView s' t' ∧ t'.codeMem.wf = true

/-- R9, R60: no step changes the parameters, and no step depends on `CCA_BASE`. -/
def Obligations.ParametersAreConstant : Prop :=
  ∀ (s t : State) (base : Nat), step s = .next t →
    t.cfg = s.cfg ∧ step (rebase base s) = .next (rebase base t)

/-! ## The reference sequencer and the source's call -/

/-- R243, R244: the reference sequencer delivers the result of `CanonAssign` in exactly the cycles of R244's table, and no
result before. That a phase with nothing to do (`n = 0` or `maxbits = 0`) takes no cycle is an inference (DEDUCED, log 13). -/
def Obligations.ReferenceSequencerMeetsItsCycleCounts : Prop :=
  ∀ (nMax : Nat) (mem : Memory 8) (nsym maxbits : Word) (r : CanonResult),
    canonAssign nMax mem nsym maxbits = r →
      (refAfter nMax mem nsym maxbits (refCycles nsym maxbits r)).result = some r
        ∧ ∀ k, k < refCycles nsym maxbits r → (refAfter nMax mem nsym maxbits k).result = none

/-- R176: the call `assign_canonical_codes`, whatever the lengths, the bound, the block's state at its start and the moments of
the sequencer's turns. When it has returned: with legal inputs it returns the codes of the three steps of §4.2, as read from
`CODE[i]`, in DONE; otherwise it fails with the cause and its details, in ERROR, with no result. A length above 255 counts as
255 (R85); more lengths than slots are `NSYM_RANGE`. And it returns, under any order of turns in which both agents keep having
theirs. The host program is R176's text with log 14 (DEDUCED); nothing rests on log 15's choice but that it returns. -/
def Obligations.CallReturnsCanonicalCodes : Prop :=
  ∀ (s : State) (lens : List Word) (mb : Word), s.Inv →
    (∀ (turns : List Agent) (c : CallState) (r : CallResult), runCall lens mb turns s = c → c.phase = .returned r →
        c.block.Inv ∧ c.block.busy = false
        ∧ (s.cfg.nMax < lens.length → lens.length < 2 ^ 32 →
            r = .failed 2#4 0#32 ∧ visibleState c.block = .error)
        ∧ (lens.length ≤ s.cfg.nMax → mb.toNat ≤ 15 → (∀ w ∈ lens, w.toNat ≤ mb.toNat) →
            visibleState c.block = .done ∧ c.block.nsym.toNat = lens.length
              ∧ ∃ codes, r = .codes codes
                ∧ codes.map BitVec.toNat =
                    (assignCodes (lens.map BitVec.toNat)
                      (startCodes (lengthCounts (lens.map BitVec.toNat)) mb.toNat)).1)
        ∧ (lens.length ≤ s.cfg.nMax → 15 < mb.toNat → r = .failed 3#4 0#32 ∧ visibleState c.block = .error)
        ∧ (lens.length ≤ s.cfg.nMax → mb.toNat ≤ 15 →
            ∀ i, i < lens.length → mb.toNat < (lens.getD i 0#32).toNat →
              (∀ j, j < i → (lens.getD j 0#32).toNat ≤ mb.toNat) →
                r = .failed 1#4 (0#8 ++ BitVec.ofNat 8 (min (lens.getD i 0#32).toNat 255) ++ BitVec.ofNat 16 i)
                  ∧ visibleState c.block = .error))
      ∧ ∀ gaps : List Nat, (∀ g ∈ gaps, 1 ≤ g) → 2 * lens.length + 9 ≤ gaps.length →
          ∃ r, (runCall lens mb (fairTurns gaps) s).phase = .returned r

/-! ## Invariants (10_state.md) -/

/-- R45: the state after reset, of every legal instance, meets the invariant. -/
def Obligations.ResetStateHasTheInvariant : Prop :=
  State.reset.Inv ∧ ∀ (cfg : Config) (schedule : List Event), cfg.wf = true →
    State.Inv { State.resetOf cfg with schedule := schedule }

/-- R36, R43, R44 and the canonical form of the memories: every step keeps the invariant, from every state that has it. -/
def Obligations.StepKeepsTheInvariant : Prop :=
  ∀ s t : State, s.Inv → step s = .next t → t.Inv

/-- R36, R43, R44 as the spec says them: in every reachable state at most one of BUSY, DONE, ERR is 1; the error fields are
0 while ERR is 0; while DONE is 1 the registers hold the result of the function on the present inputs. -/
def Obligations.ReachableStatesKeepTheSpecsInvariants : Prop :=
  ∀ s : State, Reachable s →
    (s.busy && s.done) = false ∧ (s.busy && s.err) = false ∧ (s.done && s.err) = false
      ∧ (s.err = false → s.errCode = 0#4 ∧ s.errIndex = 0#16 ∧ s.errLen = 0#8)
      ∧ (s.done = true → ResultsHold s)
end

