-- ==== Sys2Proof/Laws/State.lean ====
section
/-! SUPPORT. One lemma per field per update of the state, true by rfl: what each named update writes, and every field it
leaves alone. -/

namespace Sys2Proof.Machine

/-! ## respond -/

@[simp] theorem respond_cfg (r : Response) (s : State) : (respond r s).cfg = s.cfg := rfl
@[simp] theorem respond_nsym (r : Response) (s : State) : (respond r s).nsym = s.nsym := rfl
@[simp] theorem respond_maxbits (r : Response) (s : State) : (respond r s).maxbits = s.maxbits := rfl
@[simp] theorem respond_irqEn (r : Response) (s : State) : (respond r s).irqEn = s.irqEn := rfl
@[simp] theorem respond_busy (r : Response) (s : State) : (respond r s).busy = s.busy := rfl
@[simp] theorem respond_done (r : Response) (s : State) : (respond r s).done = s.done := rfl
@[simp] theorem respond_err (r : Response) (s : State) : (respond r s).err = s.err := rfl
@[simp] theorem respond_wign (r : Response) (s : State) : (respond r s).wign = s.wign := rfl
@[simp] theorem respond_errCode (r : Response) (s : State) : (respond r s).errCode = s.errCode := rfl
@[simp] theorem respond_errIndex (r : Response) (s : State) : (respond r s).errIndex = s.errIndex := rfl
@[simp] theorem respond_errLen (r : Response) (s : State) : (respond r s).errLen = s.errLen := rfl
@[simp] theorem respond_lenMem (r : Response) (s : State) : (respond r s).lenMem = s.lenMem := rfl
@[simp] theorem respond_codeMem (r : Response) (s : State) : (respond r s).codeMem = s.codeMem := rfl
@[simp] theorem respond_blCount (r : Response) (s : State) : (respond r s).blCount = s.blCount := rfl
@[simp] theorem respond_nextCode (r : Response) (s : State) : (respond r s).nextCode = s.nextCode := rfl
@[simp] theorem respond_schedule (r : Response) (s : State) : (respond r s).schedule = s.schedule := rfl
@[simp] theorem respond_response (r : Response) (s : State) : (respond r s).response = some r := rfl

/-! ## ignoredWrite -/

@[simp] theorem ignoredWrite_cfg (s : State) : (ignoredWrite s).cfg = s.cfg := rfl
@[simp] theorem ignoredWrite_nsym (s : State) : (ignoredWrite s).nsym = s.nsym := rfl
@[simp] theorem ignoredWrite_maxbits (s : State) : (ignoredWrite s).maxbits = s.maxbits := rfl
@[simp] theorem ignoredWrite_irqEn (s : State) : (ignoredWrite s).irqEn = s.irqEn := rfl
@[simp] theorem ignoredWrite_busy (s : State) : (ignoredWrite s).busy = s.busy := rfl
@[simp] theorem ignoredWrite_done (s : State) : (ignoredWrite s).done = s.done := rfl
@[simp] theorem ignoredWrite_err (s : State) : (ignoredWrite s).err = s.err := rfl
@[simp] theorem ignoredWrite_wign (s : State) : (ignoredWrite s).wign = true := rfl
@[simp] theorem ignoredWrite_errCode (s : State) : (ignoredWrite s).errCode = s.errCode := rfl
@[simp] theorem ignoredWrite_errIndex (s : State) : (ignoredWrite s).errIndex = s.errIndex := rfl
@[simp] theorem ignoredWrite_errLen (s : State) : (ignoredWrite s).errLen = s.errLen := rfl
@[simp] theorem ignoredWrite_lenMem (s : State) : (ignoredWrite s).lenMem = s.lenMem := rfl
@[simp] theorem ignoredWrite_codeMem (s : State) : (ignoredWrite s).codeMem = s.codeMem := rfl
@[simp] theorem ignoredWrite_blCount (s : State) : (ignoredWrite s).blCount = s.blCount := rfl
@[simp] theorem ignoredWrite_nextCode (s : State) : (ignoredWrite s).nextCode = s.nextCode := rfl
@[simp] theorem ignoredWrite_schedule (s : State) : (ignoredWrite s).schedule = s.schedule := rfl
@[simp] theorem ignoredWrite_response (s : State) : (ignoredWrite s).response = s.response := rfl

/-! ## inputWritten -/

@[simp] theorem inputWritten_cfg (s : State) : (inputWritten s).cfg = s.cfg := rfl
@[simp] theorem inputWritten_nsym (s : State) : (inputWritten s).nsym = s.nsym := rfl
@[simp] theorem inputWritten_maxbits (s : State) : (inputWritten s).maxbits = s.maxbits := rfl
@[simp] theorem inputWritten_irqEn (s : State) : (inputWritten s).irqEn = s.irqEn := rfl
@[simp] theorem inputWritten_busy (s : State) : (inputWritten s).busy = s.busy := rfl
@[simp] theorem inputWritten_done (s : State) : (inputWritten s).done = false := rfl
@[simp] theorem inputWritten_err (s : State) : (inputWritten s).err = s.err := rfl
@[simp] theorem inputWritten_wign (s : State) : (inputWritten s).wign = s.wign := rfl
@[simp] theorem inputWritten_errCode (s : State) : (inputWritten s).errCode = s.errCode := rfl
@[simp] theorem inputWritten_errIndex (s : State) : (inputWritten s).errIndex = s.errIndex := rfl
@[simp] theorem inputWritten_errLen (s : State) : (inputWritten s).errLen = s.errLen := rfl
@[simp] theorem inputWritten_lenMem (s : State) : (inputWritten s).lenMem = s.lenMem := rfl
@[simp] theorem inputWritten_codeMem (s : State) : (inputWritten s).codeMem = s.codeMem := rfl
@[simp] theorem inputWritten_blCount (s : State) : (inputWritten s).blCount = s.blCount := rfl
@[simp] theorem inputWritten_nextCode (s : State) : (inputWritten s).nextCode = s.nextCode := rfl
@[simp] theorem inputWritten_schedule (s : State) : (inputWritten s).schedule = s.schedule := rfl
@[simp] theorem inputWritten_response (s : State) : (inputWritten s).response = s.response := rfl

/-! ## raiseError -/

@[simp] theorem raiseError_cfg (c : ErrCause) (i l : Nat) (s : State) : (raiseError c i l s).cfg = s.cfg := rfl
@[simp] theorem raiseError_nsym (c : ErrCause) (i l : Nat) (s : State) : (raiseError c i l s).nsym = s.nsym := rfl
@[simp] theorem raiseError_maxbits (c : ErrCause) (i l : Nat) (s : State) : (raiseError c i l s).maxbits = s.maxbits :=
  rfl
@[simp] theorem raiseError_irqEn (c : ErrCause) (i l : Nat) (s : State) : (raiseError c i l s).irqEn = s.irqEn := rfl
@[simp] theorem raiseError_busy (c : ErrCause) (i l : Nat) (s : State) : (raiseError c i l s).busy = s.busy := rfl
@[simp] theorem raiseError_done (c : ErrCause) (i l : Nat) (s : State) : (raiseError c i l s).done = false := rfl
@[simp] theorem raiseError_err (c : ErrCause) (i l : Nat) (s : State) : (raiseError c i l s).err = true := rfl
@[simp] theorem raiseError_wign (c : ErrCause) (i l : Nat) (s : State) : (raiseError c i l s).wign = s.wign := rfl
@[simp] theorem raiseError_errCode (c : ErrCause) (i l : Nat) (s : State) : (raiseError c i l s).errCode = errCodeOf c :=
  rfl
@[simp] theorem raiseError_errIndex (c : ErrCause) (i l : Nat) (s : State) : (raiseError c i l s).errIndex = BitVec.ofNat 16 i :=
  rfl
@[simp] theorem raiseError_errLen (c : ErrCause) (i l : Nat) (s : State) : (raiseError c i l s).errLen = BitVec.ofNat 8 l :=
  rfl
@[simp] theorem raiseError_lenMem (c : ErrCause) (i l : Nat) (s : State) : (raiseError c i l s).lenMem = s.lenMem := rfl
@[simp] theorem raiseError_codeMem (c : ErrCause) (i l : Nat) (s : State) : (raiseError c i l s).codeMem = s.codeMem :=
  rfl
@[simp] theorem raiseError_blCount (c : ErrCause) (i l : Nat) (s : State) : (raiseError c i l s).blCount = s.blCount :=
  rfl
@[simp] theorem raiseError_nextCode (c : ErrCause) (i l : Nat) (s : State) : (raiseError c i l s).nextCode = s.nextCode :=
  rfl
@[simp] theorem raiseError_schedule (c : ErrCause) (i l : Nat) (s : State) : (raiseError c i l s).schedule = s.schedule :=
  rfl
@[simp] theorem raiseError_response (c : ErrCause) (i l : Nat) (s : State) : (raiseError c i l s).response = s.response :=
  rfl

/-! ## clearStatus -/

@[simp] theorem clearStatus_cfg (s : State) : (clearStatus s).cfg = s.cfg := rfl
@[simp] theorem clearStatus_nsym (s : State) : (clearStatus s).nsym = s.nsym := rfl
@[simp] theorem clearStatus_maxbits (s : State) : (clearStatus s).maxbits = s.maxbits := rfl
@[simp] theorem clearStatus_irqEn (s : State) : (clearStatus s).irqEn = s.irqEn := rfl
@[simp] theorem clearStatus_busy (s : State) : (clearStatus s).busy = s.busy := rfl
@[simp] theorem clearStatus_done (s : State) : (clearStatus s).done = false := rfl
@[simp] theorem clearStatus_err (s : State) : (clearStatus s).err = false := rfl
@[simp] theorem clearStatus_wign (s : State) : (clearStatus s).wign = false := rfl
@[simp] theorem clearStatus_errCode (s : State) : (clearStatus s).errCode = 0#4 := rfl
@[simp] theorem clearStatus_errIndex (s : State) : (clearStatus s).errIndex = 0#16 := rfl
@[simp] theorem clearStatus_errLen (s : State) : (clearStatus s).errLen = 0#8 := rfl
@[simp] theorem clearStatus_lenMem (s : State) : (clearStatus s).lenMem = s.lenMem := rfl
@[simp] theorem clearStatus_codeMem (s : State) : (clearStatus s).codeMem = s.codeMem := rfl
@[simp] theorem clearStatus_blCount (s : State) : (clearStatus s).blCount = s.blCount := rfl
@[simp] theorem clearStatus_nextCode (s : State) : (clearStatus s).nextCode = s.nextCode := rfl
@[simp] theorem clearStatus_schedule (s : State) : (clearStatus s).schedule = s.schedule := rfl
@[simp] theorem clearStatus_response (s : State) : (clearStatus s).response = s.response := rfl

/-! ## resetBlock -/

@[simp] theorem resetBlock_cfg (s : State) : (resetBlock s).cfg = s.cfg := rfl
@[simp] theorem resetBlock_nsym (s : State) : (resetBlock s).nsym = 0#32 := rfl
@[simp] theorem resetBlock_maxbits (s : State) : (resetBlock s).maxbits = 0#32 := rfl
@[simp] theorem resetBlock_irqEn (s : State) : (resetBlock s).irqEn = false := rfl
@[simp] theorem resetBlock_busy (s : State) : (resetBlock s).busy = false := rfl
@[simp] theorem resetBlock_done (s : State) : (resetBlock s).done = false := rfl
@[simp] theorem resetBlock_err (s : State) : (resetBlock s).err = false := rfl
@[simp] theorem resetBlock_wign (s : State) : (resetBlock s).wign = false := rfl
@[simp] theorem resetBlock_errCode (s : State) : (resetBlock s).errCode = 0#4 := rfl
@[simp] theorem resetBlock_errIndex (s : State) : (resetBlock s).errIndex = 0#16 := rfl
@[simp] theorem resetBlock_errLen (s : State) : (resetBlock s).errLen = 0#8 := rfl
@[simp] theorem resetBlock_lenMem (s : State) : (resetBlock s).lenMem = [] := rfl
@[simp] theorem resetBlock_codeMem (s : State) : (resetBlock s).codeMem = [] := rfl
@[simp] theorem resetBlock_blCount (s : State) : (resetBlock s).blCount = Vector.replicate Config.nl 0#32 := rfl
@[simp] theorem resetBlock_nextCode (s : State) : (resetBlock s).nextCode = Vector.replicate Config.nl 0#32 := rfl
@[simp] theorem resetBlock_schedule (s : State) : (resetBlock s).schedule = s.schedule := rfl
@[simp] theorem resetBlock_response (s : State) : (resetBlock s).response = none := rfl

/-! ## commitSuccess -/

@[simp] theorem commitSuccess_cfg (codes : List Nat) (bl nc : LenTable) (s : State) : (commitSuccess codes bl nc s).cfg = s.cfg :=
  rfl
@[simp] theorem commitSuccess_nsym (codes : List Nat) (bl nc : LenTable) (s : State) : (commitSuccess codes bl nc s).nsym = s.nsym :=
  rfl
@[simp] theorem commitSuccess_maxbits (codes : List Nat) (bl nc : LenTable) (s : State) : (commitSuccess codes bl nc s).maxbits = s.maxbits :=
  rfl
@[simp] theorem commitSuccess_irqEn (codes : List Nat) (bl nc : LenTable) (s : State) : (commitSuccess codes bl nc s).irqEn = s.irqEn :=
  rfl
@[simp] theorem commitSuccess_busy (codes : List Nat) (bl nc : LenTable) (s : State) : (commitSuccess codes bl nc s).busy = false :=
  rfl
@[simp] theorem commitSuccess_done (codes : List Nat) (bl nc : LenTable) (s : State) : (commitSuccess codes bl nc s).done = true :=
  rfl
@[simp] theorem commitSuccess_err (codes : List Nat) (bl nc : LenTable) (s : State) : (commitSuccess codes bl nc s).err = s.err :=
  rfl
@[simp] theorem commitSuccess_wign (codes : List Nat) (bl nc : LenTable) (s : State) : (commitSuccess codes bl nc s).wign = s.wign :=
  rfl
@[simp] theorem commitSuccess_errCode (codes : List Nat) (bl nc : LenTable) (s : State) : (commitSuccess codes bl nc s).errCode = s.errCode :=
  rfl
@[simp] theorem commitSuccess_errIndex (codes : List Nat) (bl nc : LenTable) (s : State) : (commitSuccess codes bl nc s).errIndex = s.errIndex :=
  rfl
@[simp] theorem commitSuccess_errLen (codes : List Nat) (bl nc : LenTable) (s : State) : (commitSuccess codes bl nc s).errLen = s.errLen :=
  rfl
@[simp] theorem commitSuccess_lenMem (codes : List Nat) (bl nc : LenTable) (s : State) : (commitSuccess codes bl nc s).lenMem = s.lenMem :=
  rfl
@[simp] theorem commitSuccess_codeMem (codes : List Nat) (bl nc : LenTable) (s : State) : (commitSuccess codes bl nc s).codeMem = storeCodes s.codeMem 0 codes :=
  rfl
@[simp] theorem commitSuccess_blCount (codes : List Nat) (bl nc : LenTable) (s : State) : (commitSuccess codes bl nc s).blCount = tableRegisters bl :=
  rfl
@[simp] theorem commitSuccess_nextCode (codes : List Nat) (bl nc : LenTable) (s : State) : (commitSuccess codes bl nc s).nextCode = tableRegisters nc :=
  rfl
@[simp] theorem commitSuccess_schedule (codes : List Nat) (bl nc : LenTable) (s : State) : (commitSuccess codes bl nc s).schedule = s.schedule :=
  rfl
@[simp] theorem commitSuccess_response (codes : List Nat) (bl nc : LenTable) (s : State) : (commitSuccess codes bl nc s).response = s.response :=
  rfl

/-! ## commitError -/

@[simp] theorem commitError_cfg (c : ErrCause) (i l : Nat) (s : State) : (commitError c i l s).cfg = s.cfg := rfl
@[simp] theorem commitError_nsym (c : ErrCause) (i l : Nat) (s : State) : (commitError c i l s).nsym = s.nsym := rfl
@[simp] theorem commitError_maxbits (c : ErrCause) (i l : Nat) (s : State) : (commitError c i l s).maxbits = s.maxbits :=
  rfl
@[simp] theorem commitError_irqEn (c : ErrCause) (i l : Nat) (s : State) : (commitError c i l s).irqEn = s.irqEn := rfl
@[simp] theorem commitError_busy (c : ErrCause) (i l : Nat) (s : State) : (commitError c i l s).busy = false := rfl
@[simp] theorem commitError_done (c : ErrCause) (i l : Nat) (s : State) : (commitError c i l s).done = false := rfl
@[simp] theorem commitError_err (c : ErrCause) (i l : Nat) (s : State) : (commitError c i l s).err = true := rfl
@[simp] theorem commitError_wign (c : ErrCause) (i l : Nat) (s : State) : (commitError c i l s).wign = s.wign := rfl
@[simp] theorem commitError_errCode (c : ErrCause) (i l : Nat) (s : State) : (commitError c i l s).errCode = errCodeOf c :=
  rfl
@[simp] theorem commitError_errIndex (c : ErrCause) (i l : Nat) (s : State) : (commitError c i l s).errIndex = BitVec.ofNat 16 i :=
  rfl
@[simp] theorem commitError_errLen (c : ErrCause) (i l : Nat) (s : State) : (commitError c i l s).errLen = BitVec.ofNat 8 l :=
  rfl
@[simp] theorem commitError_lenMem (c : ErrCause) (i l : Nat) (s : State) : (commitError c i l s).lenMem = s.lenMem :=
  rfl
@[simp] theorem commitError_codeMem (c : ErrCause) (i l : Nat) (s : State) : (commitError c i l s).codeMem = s.codeMem :=
  rfl
@[simp] theorem commitError_blCount (c : ErrCause) (i l : Nat) (s : State) : (commitError c i l s).blCount = s.blCount :=
  rfl
@[simp] theorem commitError_nextCode (c : ErrCause) (i l : Nat) (s : State) : (commitError c i l s).nextCode = s.nextCode :=
  rfl
@[simp] theorem commitError_schedule (c : ErrCause) (i l : Nat) (s : State) : (commitError c i l s).schedule = s.schedule :=
  rfl
@[simp] theorem commitError_response (c : ErrCause) (i l : Nat) (s : State) : (commitError c i l s).response = s.response :=
  rfl

end Sys2Proof.Machine
end

