-- ==== Sys2Proof/Laws/Exec.lean ====
section
/-! SUPPORT. Say once what a transaction can do, what the sequencer's turn can do, and what a step can do; the provers
cite these inversions instead of unfolding `exec`, `complete` and `step`. -/

namespace Sys2Proof.Machine

/-- Everything a host transaction can do to the block, with the guard of each effect. -/
inductive HostEffect (s : State) : State → Prop where
  | unchanged : HostEffect s s
  | ignored (h : s.busy = true ∨ s.err = true) : HostEffect s (ignoredWrite s)
  | writesNsym (w : Word) (h : s.busy = false) : HostEffect s (inputWritten { s with nsym := w })
  | writesMaxbits (w : Word) (h : s.busy = false) : HostEffect s (inputWritten { s with maxbits := w })
  | writesLen (i : SymIndex) (w : Word) (h : s.busy = false) (hi : i.toNat < s.cfg.nMax) :
      HostEffect s (inputWritten { s with lenMem := s.lenMem.write i.toNat (saturateLen w) })
  | writesIrqEn (en : Bool) : HostEffect s { s with irqEn := en }
  | starts (hb : s.busy = false) (he : s.err = false) : HostEffect s { s with done := false, busy := true }
  | clears (hb : s.busy = false) : HostEffect s (clearStatus s)
  | raises (hb : s.busy = false) (he : s.err = false) : HostEffect s (raiseError .illegalCmd 0 0 s)

theorem busyCommand_effect (w : Word) (s : State) (h : s.busy = true) : HostEffect s (busyCommand w s) := by
  unfold busyCommand
  split
  · exact .ignored (.inl h)
  · exact .unchanged

theorem commandAssign_effect (s : State) (h : s.busy = false) : HostEffect s (commandAssign s) := by
  unfold commandAssign
  split
  · rename_i he
    exact .ignored (.inr he)
  · rename_i he
    exact .starts h (by simpa using he)

theorem commandIllegal_effect (s : State) (h : s.busy = false) : HostEffect s (commandIllegal s) := by
  unfold commandIllegal
  split
  · rename_i he
    exact .ignored (.inr he)
  · rename_i he
    exact .raises h (by simpa using he)

theorem runCommand_effect (w : Word) (body : State → State) (s : State)
    (h : s.busy = false → HostEffect s (body s)) : HostEffect s (runCommand w body s) := by
  unfold runCommand
  split
  · rename_i hb
    exact busyCommand_effect w s hb
  · rename_i hb
    exact h (by simpa using hb)

theorem command_effect (w : Word) (s : State) : HostEffect s (command w s) := by
  unfold command
  split
  · rename_i hb
    exact busyCommand_effect w s hb
  · rename_i hb
    have hb : s.busy = false := by simpa using hb
    split
    · exact .unchanged
    · split
      · exact commandAssign_effect s hb
      · split
        · exact .clears hb
        · exact commandIllegal_effect s hb

theorem writeInput_effect (stored s : State) (h : s.busy = false → HostEffect s (inputWritten stored)) :
    HostEffect s (writeInput stored s) := by
  unfold writeInput
  split
  · rename_i hb
    exact .ignored (.inl hb)
  · rename_i hb
    exact h (by simpa using hb)

/-- What a transaction does: an effect of `HostEffect`, and an answer on the port. -/
theorem exec_cases {i : Instr} {s t : State} (h : exec i s = .next t) :
    ∃ r s', t = respond r s' ∧ HostEffect s s' := by
  cases i <;> simp only [exec] at h
  case nop => cases h; exact ⟨_, _, rfl, runCommand_effect _ _ s fun _ => .unchanged⟩
  case assign => cases h; exact ⟨_, _, rfl, runCommand_effect _ _ s (commandAssign_effect s)⟩
  case clrstat => cases h; exact ⟨_, _, rfl, runCommand_effect _ _ s fun hb => .clears hb⟩
  case illegalCmd w => cases h; exact ⟨_, _, rfl, runCommand_effect _ _ s (commandIllegal_effect s)⟩
  case cmdWhileBusy w => cases h; exact ⟨_, _, rfl, command_effect w s⟩
  case wrCmd w => cases h; exact ⟨_, _, rfl, command_effect w s⟩
  case wrNsym w => cases h; exact ⟨_, _, rfl, writeInput_effect _ s fun hb => .writesNsym w hb⟩
  case wrMaxbits w => cases h; exact ⟨_, _, rfl, writeInput_effect _ s fun hb => .writesMaxbits w hb⟩
  case wrIrqEn w => cases h; exact ⟨_, _, rfl, .writesIrqEn _⟩
  case wrLen i w =>
    cases h
    by_cases hi : i.toNat < s.cfg.nMax
    · exact ⟨_, _, by simp only [hi, if_true]; rfl, writeInput_effect _ s fun hb => .writesLen i w hb hi⟩
    · exact ⟨_, _, by simp only [hi, if_false]; rfl, .unchanged⟩
  case rdLen i =>
    cases h
    by_cases hi : i.toNat < s.cfg.nMax
    · exact ⟨_, _, by simp only [readSlot, hi, if_true]; rfl, .unchanged⟩
    · exact ⟨_, _, by simp only [readSlot, hi, if_false]; rfl, .unchanged⟩
  case rdCode i =>
    cases h
    by_cases hi : i.toNat < s.cfg.nMax
    · exact ⟨_, _, by simp only [readSlot, hi, if_true]; rfl, .unchanged⟩
    · exact ⟨_, _, by simp only [readSlot, hi, if_false]; rfl, .unchanged⟩
  case misaligned r => cases h; cases r <;> exact ⟨_, _, rfl, .unchanged⟩
  case unmapped r => cases h; cases r <;> exact ⟨_, _, rfl, .unchanged⟩
  all_goals cases h; exact ⟨_, _, rfl, .unchanged⟩

/-- Everything the sequencer's turn can do: nothing while not BUSY; while BUSY, one of the two commits. -/
inductive TurnEffect (s : State) : State → Prop where
  | notEnabled (h : s.busy = false) : TurnEffect s s
  | succeeds (h : s.busy = true) (codes : List Nat) (bl nc : LenTable)
      (hr : canonAssign s.cfg.nMax s.lenMem s.nsym s.maxbits = .ok codes bl nc) :
      TurnEffect s (commitSuccess codes bl nc s)
  | fails (h : s.busy = true) (cause : ErrCause) (index len : Nat)
      (hr : canonAssign s.cfg.nMax s.lenMem s.nsym s.maxbits = .err cause index len) :
      TurnEffect s (commitError cause index len s)

theorem sequencerTurn_cases (s : State) : TurnEffect s (sequencerTurn s) := by
  unfold sequencerTurn
  split
  · rename_i hb
    unfold complete
    split
    · rename_i hr
      exact .succeeds hb _ _ _ hr
    · rename_i hr
      exact .fails hb _ _ _ hr
  · rename_i hb
    exact .notEnabled (by simpa using hb)

/-- What a step does, by the next input of the schedule. -/
theorem step_cases {s t : State} (h : step s = .next t) :
    (s.schedule = [] ∧ TurnEffect s t)
      ∨ (∃ rest, s.schedule = .sequencer :: rest ∧ TurnEffect { s with schedule := rest } t)
      ∨ (∃ rest, s.schedule = .reset :: rest ∧ t = resetBlock { s with schedule := rest })
      ∨ (∃ tr rest r s', s.schedule = .transaction tr :: rest
          ∧ exec (decode s.cfg.nMax s.busy tr) { s with schedule := rest } = .next t
          ∧ t = respond r s' ∧ HostEffect { s with schedule := rest } s') := by
  unfold step at h
  split at h
  · rename_i hs
    cases h
    exact .inl ⟨hs, sequencerTurn_cases s⟩
  · rename_i tr rest hs
    obtain ⟨r, s', ht, he⟩ := exec_cases h
    exact .inr (.inr (.inr ⟨tr, rest, r, s', hs, h, ht, he⟩))
  · rename_i rest hs
    cases h
    exact .inr (.inl ⟨rest, hs, sequencerTurn_cases _⟩)
  · rename_i rest hs
    cases h
    exact .inr (.inr (.inl ⟨rest, hs, rfl⟩))

end Sys2Proof.Machine
end

