-- ==== Sys2Proof/Laws/Call.lean ====
section
/-! SUPPORT. What one turn of the call of R176 does, and how its runs are cut into turns; the provers cite these instead of
unfolding `callTurn`, `advance` and `runCall`. -/

namespace Sys2Proof.Machine

variable {lens : List Word} {mb : Word}

@[simp] theorem runCall_nil (s : State) : runCall lens mb [] s = { phase := .waiting, block := s } := rfl

theorem runCall_append (a b : List Agent) (s : State) :
    runCall lens mb (a ++ b) s = b.foldl (callTurn lens mb) (runCall lens mb a s) := List.foldl_append

theorem runCall_concat (turns : List Agent) (a : Agent) (s : State) :
    runCall lens mb (turns ++ [a]) s = callTurn lens mb (runCall lens mb turns s) a := by
  simp [runCall_append]

theorem advance_sequencer (s : State) : advance .sequencer s = sequencerTurn { s with schedule := [] } := rfl

/-- A line of the host runs the instruction its request decodes to. -/
theorem advance_line {line : ScriptLine} {s t : State}
    (h : exec (decodeBus s.cfg.nMax line.request) { s with schedule := [] } = .next t) : advance line.event s = t := by
  have hs : step { s with schedule := [line.event] } = .next t := h
  simp [advance, hs]

@[simp] theorem callTurn_sequencer_phase (c : CallState) : (callTurn lens mb c .sequencer).phase = c.phase := rfl

theorem callTurn_sequencer_block (c : CallState) :
    (callTurn lens mb c .sequencer).block = sequencerTurn { c.block with schedule := [] } := rfl

/-- A turn of the host with a line to issue: the block runs it, and its answer decides the phase. -/
theorem callTurn_host {c : CallState} {line : ScriptLine} {t : State} {r : Response} (hl : callLine c.phase = some line)
    (ht : exec (decodeBus c.block.cfg.nMax line.request) { c.block with schedule := [] } = .next t)
    (hr : t.response = some r) :
    callTurn lens mb c .host = { phase := callAnswer lens mb c.phase r, block := t } := by
  simp [callTurn, hl, advance_line ht, callPhaseAfter, hr]

/-- A call that has returned stays as it is, whichever agent has its turn. -/
theorem callTurn_phase_of_returned {c : CallState} {r : CallResult} (h : c.phase = .returned r) (a : Agent) :
    (callTurn lens mb c a).phase = .returned r := by
  cases a <;> simp [callTurn, callLine, h]

theorem foldl_callTurn_of_returned {r : CallResult} (turns : List Agent) :
    ∀ c : CallState, c.phase = .returned r → (turns.foldl (callTurn lens mb) c).phase = .returned r := by
  induction turns with
  | nil => exact fun _ h => h
  | cons a turns ih => exact fun c h => ih _ (callTurn_phase_of_returned h a)

end Sys2Proof.Machine
end

