-- ==== Sys2Proof/Laws/Codec.lean ====
section
/-! SUPPORT. Small lemmas of the address map (20_memory.md R63, R70): the offsets as numbers and as concatenations of the
fields R70 reads back. -/

namespace Sys2Proof

theorem Target.offset_len (i : SymIndex) : (Target.len i).offset = 1#2 ++ i ++ 0#2 := by
  have hi := i.isLt
  apply BitVec.eq_of_toNat_eq
  simp only [Target.offset, BitVec.toNat_ofNat, BitVec.toNat_append]
  rw [← Nat.shiftLeft_add_eq_or_of_lt (by omega), ← Nat.shiftLeft_add_eq_or_of_lt (by omega)]
  simp only [Nat.shiftLeft_eq]
  omega

theorem Target.offset_code (i : SymIndex) : (Target.code i).offset = 2#2 ++ i ++ 0#2 := by
  have hi := i.isLt
  apply BitVec.eq_of_toNat_eq
  simp only [Target.offset, BitVec.toNat_ofNat, BitVec.toNat_append]
  rw [← Nat.shiftLeft_add_eq_or_of_lt (by omega), ← Nat.shiftLeft_add_eq_or_of_lt (by omega)]
  simp only [Nat.shiftLeft_eq]
  omega

theorem Target.offset_len_toNat (i : SymIndex) : (Target.len i).offset.toNat = 0x40000 + 4 * i.toNat := by
  have hi := i.isLt
  simp only [Target.offset, BitVec.toNat_ofNat]
  omega

theorem Target.offset_code_toNat (i : SymIndex) : (Target.code i).offset.toNat = 0x80000 + 4 * i.toNat := by
  have hi := i.isLt
  simp only [Target.offset, BitVec.toNat_ofNat]
  omega

theorem Target.offset_blCount_toNat (L : LenIndex) : (Target.blCount L).offset.toNat = 0x00040 + 4 * L.toNat := by
  have hi := L.isLt
  simp only [Target.offset, BitVec.toNat_ofNat]
  omega

theorem Target.offset_nextCode_toNat (L : LenIndex) : (Target.nextCode L).offset.toNat = 0x00080 + 4 * L.toNat := by
  have hi := L.isLt
  simp only [Target.offset, BitVec.toNat_ofNat]
  omega

/-- The index R70 reads, as a number. -/
theorem symIndexOf_toNat (off : Offset) : (symIndexOf off).toNat = off.toNat / 4 % 65536 := by
  simp [symIndexOf, BitVec.extractLsb'_toNat, Nat.shiftRight_eq_div_pow]

/-- The index R70 reads, as a number. -/
theorem lenIndexOf_toNat (off : Offset) : (lenIndexOf off).toNat = off.toNat / 4 % 16 := by
  simp [lenIndexOf, BitVec.extractLsb'_toNat, Nat.shiftRight_eq_div_pow]

/-- `off[1:0]` as a number. -/
theorem lowBits_eq_zero_iff (off : Offset) : off.extractLsb' 0 2 = 0#2 ↔ off.toNat % 4 = 0 := by
  rw [← BitVec.toNat_inj]
  simp [BitVec.extractLsb'_toNat]

end Sys2Proof
end

