-- ==== Sys2Proof/Laws/Memory.lean ====
section
/-! SUPPORT. The laws of the memories: read after write, the canonical form is kept, equal contents are equal lists. -/

namespace Sys2Proof.Machine

variable {w : Nat}

@[simp] theorem Memory.read_nil (a : Nat) : Memory.read ([] : Memory w) a = 0#w := rfl

@[simp] theorem Memory.wf_nil : Memory.wf ([] : Memory w) = true := rfl

@[simp] theorem Memory.within_nil (n : Nat) : Memory.within n ([] : Memory w) = true := rfl

theorem Memory.wf_cons {a : Nat} {v : BitVec w} {m : Memory w} :
    Memory.wf ((a, v) :: m) = true ↔ v ≠ 0#w ∧ (∀ c ∈ m, a < c.1) ∧ Memory.wf m = true := by
  simp [Memory.wf, and_assoc]

theorem Memory.within_iff {n : Nat} {m : Memory w} : Memory.within n m = true ↔ ∀ c ∈ m, c.1 < n := by
  simp [Memory.within]

/-- Below every listed index the memory reads as unlisted. -/
theorem Memory.read_of_lt : ∀ (m : Memory w) (a : Nat), (∀ c ∈ m, a < c.1) → Memory.read m a = 0#w
  | [], _, _ => rfl
  | (b, v) :: m, a, h => by
    have hb : a < b := h (b, v) (by simp)
    have : a ≠ b := by omega
    simp only [Memory.read, this, if_false]
    exact Memory.read_of_lt m a (fun c hc => h c (by simp [hc]))

/-- What a write lists: nothing but the written index and the indices already listed. -/
theorem Memory.mem_write : ∀ (m : Memory w) (a : Nat) (v : BitVec w) (c : Nat × BitVec w),
    c ∈ Memory.write m a v → c = (a, v) ∨ c ∈ m
  | [], a, v, c, h => by
    unfold Memory.write at h
    split at h <;> simp_all
  | (b, u) :: m, a, v, c, h => by
    unfold Memory.write at h
    split at h
    · split at h <;> simp_all
    · split at h
      · split at h
        · exact .inr (by simp [h])
        · simp only [List.mem_cons] at h ⊢
          tauto
      · simp only [List.mem_cons] at h
        rcases h with h | h
        · exact .inr (by simp [h])
        · rcases Memory.mem_write m a v c h with h | h
          · exact .inl h
          · exact .inr (by simp [h])

theorem Memory.read_write_same : ∀ (m : Memory w) (a : Nat) (v : BitVec w), Memory.wf m = true →
    Memory.read (Memory.write m a v) a = v
  | [], a, v, _ => by
    unfold Memory.write
    split <;> simp_all [Memory.read]
  | (b, u) :: m, a, v, hwf => by
    obtain ⟨_, hlt, hm⟩ := Memory.wf_cons.1 hwf
    unfold Memory.write
    split
    · rename_i hab
      split
      · rename_i hv
        rw [Memory.read_of_lt, hv]
        rintro c hc
        rcases List.mem_cons.1 hc with rfl | hc
        · exact hab
        · exact lt_trans hab (hlt c hc)
      · simp [Memory.read]
    · split
      · rename_i hab
        subst hab
        split
        · rename_i hv
          rw [Memory.read_of_lt m a hlt, hv]
        · simp [Memory.read]
      · rename_i hne
        simp only [Memory.read, hne, if_false]
        exact Memory.read_write_same m a v hm

theorem Memory.read_write_other : ∀ (m : Memory w) (a a' : Nat) (v : BitVec w), Memory.wf m = true → a' ≠ a →
    Memory.read (Memory.write m a v) a' = Memory.read m a'
  | [], a, a', v, _, hne => by
    unfold Memory.write
    split <;> simp_all [Memory.read]
  | (b, u) :: m, a, a', v, hwf, hne => by
    obtain ⟨_, hlt, hm⟩ := Memory.wf_cons.1 hwf
    unfold Memory.write
    split
    · split <;> simp [Memory.read, hne]
    · split
      · rename_i hab
        subst hab
        split <;> simp [Memory.read, hne]
      · simp only [Memory.read]
        rw [Memory.read_write_other m a a' v hm hne]

/-- Read after write (R71): the written entry has the value, every other entry is as before. -/
theorem Memory.read_write (m : Memory w) (a a' : Nat) (v : BitVec w) (hwf : Memory.wf m = true) :
    Memory.read (Memory.write m a v) a' = if a' = a then v else Memory.read m a' := by
  split
  · rename_i h
    rw [h, Memory.read_write_same m a v hwf]
  · rename_i h
    exact Memory.read_write_other m a a' v hwf h

theorem Memory.write_wf : ∀ (m : Memory w) (a : Nat) (v : BitVec w), Memory.wf m = true →
    Memory.wf (Memory.write m a v) = true
  | [], a, v, _ => by
    unfold Memory.write
    split <;> simp_all [Memory.wf]
  | (b, u) :: m, a, v, hwf => by
    obtain ⟨hu, hlt, hm⟩ := Memory.wf_cons.1 hwf
    unfold Memory.write
    split
    · rename_i hab
      split
      · exact hwf
      · rename_i hv
        refine Memory.wf_cons.2 ⟨hv, ?_, hwf⟩
        rintro c hc
        rcases List.mem_cons.1 hc with rfl | hc
        · exact hab
        · exact lt_trans hab (hlt c hc)
    · split
      · rename_i hab
        subst hab
        split
        · exact hm
        · rename_i hv
          exact Memory.wf_cons.2 ⟨hv, hlt, hm⟩
      · rename_i hge hne
        refine Memory.wf_cons.2 ⟨hu, ?_, Memory.write_wf m a v hm⟩
        intro c hc
        rcases Memory.mem_write m a v c hc with rfl | hc
        · omega
        · exact hlt c hc

theorem Memory.write_within (n : Nat) (m : Memory w) (a : Nat) (v : BitVec w) (h : Memory.within n m = true)
    (ha : a < n) : Memory.within n (Memory.write m a v) = true := by
  refine Memory.within_iff.2 fun c hc => ?_
  rcases Memory.mem_write m a v c hc with rfl | hc
  · exact ha
  · exact Memory.within_iff.1 h c hc

/-- Outside the slots a memory reads as unlisted. -/
theorem Memory.read_of_within {n : Nat} {m : Memory w} (h : Memory.within n m = true) {a : Nat} (ha : n ≤ a) :
    Memory.read m a = 0#w := by
  induction m with
  | nil => rfl
  | cons c m ih =>
    obtain ⟨b, v⟩ := c
    have hc := Memory.within_iff.1 h
    have hb : b < n := hc (b, v) (by simp)
    have : a ≠ b := by omega
    simp only [Memory.read, this, if_false]
    exact ih (Memory.within_iff.2 fun c hm => hc c (by simp [hm]))

/-- The form is canonical: two memories that read alike are the same list. -/
theorem Memory.eq_of_read : ∀ (m m' : Memory w), Memory.wf m = true → Memory.wf m' = true →
    (∀ a, Memory.read m a = Memory.read m' a) → m = m'
  | [], [], _, _, _ => rfl
  | [], (b, v) :: m', _, h', hr => by
    have := hr b
    simp only [Memory.read, if_true] at this
    exact absurd this.symm (Memory.wf_cons.1 h').1
  | (b, v) :: m, [], h, _, hr => by
    have := hr b
    simp only [Memory.read, if_true] at this
    exact absurd this (Memory.wf_cons.1 h).1
  | (a, u) :: m, (b, v) :: m', h, h', hr => by
    obtain ⟨hu, hlt, hm⟩ := Memory.wf_cons.1 h
    obtain ⟨hv, hlt', hm'⟩ := Memory.wf_cons.1 h'
    have hab : a = b := by
      rcases Nat.lt_trichotomy a b with hab | hab | hab
      · exfalso
        have h1 := hr a
        rw [Memory.read_of_lt ((b, v) :: m') a] at h1
        · simp only [Memory.read, if_true] at h1
          exact hu h1
        · rintro c hc
          rcases List.mem_cons.1 hc with rfl | hc
          · exact hab
          · exact lt_trans hab (hlt' c hc)
      · exact hab
      · exfalso
        have h1 := hr b
        rw [Memory.read_of_lt ((a, u) :: m) b] at h1
        · simp only [Memory.read, if_true] at h1
          exact hv h1.symm
        · rintro c hc
          rcases List.mem_cons.1 hc with rfl | hc
          · exact hab
          · exact lt_trans hab (hlt c hc)
    subst hab
    have huv : u = v := by simpa [Memory.read] using hr a
    subst huv
    congr 1
    refine Memory.eq_of_read m m' hm hm' fun c => ?_
    by_cases hc : c = a
    · subst hc
      rw [Memory.read_of_lt m c hlt, Memory.read_of_lt m' c hlt']
    · simpa [Memory.read, hc] using hr c

end Sys2Proof.Machine
end

