-- ==== Sys2Proof/Laws/PerInstr.lean ====
section
/-! SUPPORT. The per-instruction family TableRow: the transaction the encoder writes for an instruction has the fixed bits
that spec/opcode_table.json gives the instruction's row. -/

namespace Sys2Proof.Laws.TableRow

/-- `key & mask = match` (R81), or `wdata & mask = match` (R84), for the instruction's own row. -/
def Statement (i : Instr) : Prop := i.row.matchesTransaction (encode i) = true

/-- Bits `[20:18]` and `[1:0]` of a window key are the fixed bits of the `LEN` and `CODE` rows. -/
theorem window_mask (W : BitVec 1) (b : BitVec 2) (i : SymIndex) (off : Offset) (h : off = b ++ i ++ 0#2) :
    (W ++ off) &&& 0x1C0003#21 = W ++ (b ++ 0#16 ++ 0#2 : Offset) := by
  subst h
  apply BitVec.eq_of_getLsbD_eq
  intro k hk
  simp only [BitVec.getLsbD_and, BitVec.getLsbD_append, BitVec.getLsbD_zero]
  interval_cases k <;> simp

/-- A full-strobe write to a place has the row's bits as soon as its key does. -/
theorem write_row (t : Target) (w : Word) (v m : Key) (h : (1#1 ++ t.offset) &&& m = v) :
    (TableRow.bus v m).matchesTransaction (writeOf t w) = true := by
  simp [TableRow.matchesTransaction, writeOf, Request.key, h]

theorem nop : Statement .nop := rfl
theorem assign : Statement .assign := rfl
theorem clrstat : Statement .clrstat := rfl
theorem illegalCmd (w : Word) : Statement (.illegalCmd w) := by
  simp [Statement, Instr.row, encode, TableRow.matchesTransaction]
theorem cmdWhileBusy (w : Word) : Statement (.cmdWhileBusy w) := by
  simp [Statement, Instr.row, encode, TableRow.matchesTransaction]
theorem rdId : Statement .rdId := rfl
theorem rdParam : Statement .rdParam := rfl
theorem rdCmd : Statement .rdCmd := rfl
theorem wrCmd (w : Word) : Statement (.wrCmd w) := write_row .cmd w _ _ (by decide)
theorem rdStatus : Statement .rdStatus := rfl
theorem rdNsym : Statement .rdNsym := rfl
theorem wrNsym (w : Word) : Statement (.wrNsym w) := write_row .nsym w _ _ (by decide)
theorem rdMaxbits : Statement .rdMaxbits := rfl
theorem wrMaxbits (w : Word) : Statement (.wrMaxbits w) := write_row .maxbits w _ _ (by decide)
theorem rdIrqEn : Statement .rdIrqEn := rfl
theorem wrIrqEn (w : Word) : Statement (.wrIrqEn w) := write_row .irqEn w _ _ (by decide)
theorem rdErrInfo : Statement .rdErrInfo := rfl
theorem rdBlCount (L : LenIndex) : Statement (.rdBlCount L) := by
  unfold Statement
  revert L
  decide
theorem rdNextCode (L : LenIndex) : Statement (.rdNextCode L) := by
  unfold Statement
  revert L
  decide
theorem rdLen (i : SymIndex) : Statement (.rdLen i) := by
  simp only [Statement, Instr.row, encode, readOf, TableRow.matchesTransaction, Request.key,
    window_mask _ 1#2 i _ (Target.offset_len i)]
  decide
theorem wrLen (i : SymIndex) (w : Word) : Statement (.wrLen i w) :=
  write_row (.len i) w _ _ ((window_mask _ 1#2 i _ (Target.offset_len i)).trans (by decide))
theorem rdCode (i : SymIndex) : Statement (.rdCode i) := by
  simp only [Statement, Instr.row, encode, readOf, TableRow.matchesTransaction, Request.key,
    window_mask _ 2#2 i _ (Target.offset_code i)]
  decide
theorem wrId (w : Word) : Statement (.wrId w) := write_row .id w _ _ (by decide)
theorem wrParam (w : Word) : Statement (.wrParam w) := write_row .param w _ _ (by decide)
theorem wrStatus (w : Word) : Statement (.wrStatus w) := write_row .status w _ _ (by decide)
theorem wrErrInfo (w : Word) : Statement (.wrErrInfo w) := write_row .errInfo w _ _ (by decide)
theorem wrBlCount (L : LenIndex) (w : Word) : Statement (.wrBlCount L w) :=
  write_row (.blCount L) w _ _ (by revert L; decide)
theorem wrNextCode (L : LenIndex) (w : Word) : Statement (.wrNextCode L w) :=
  write_row (.nextCode L) w _ _ (by revert L; decide)
theorem wrCode (i : SymIndex) (w : Word) : Statement (.wrCode i w) :=
  write_row (.code i) w _ _ ((window_mask _ 2#2 i _ (Target.offset_code i)).trans (by decide))
theorem misaligned (r : Request) : Statement (.misaligned r) := by
  simp [Statement, Instr.row, encode, TableRow.matchesTransaction]
theorem unmapped (r : Request) : Statement (.unmapped r) := by
  simp [Statement, Instr.row, encode, TableRow.matchesTransaction]
theorem partialStrobe (off : Offset) (wdata : Word) (wstrb : Strobe) :
    Statement (.partialStrobe off wdata wstrb) := by
  have h : (1#1 ++ off) &&& 0x100000#21 = 0x100000#21 := by
    apply BitVec.eq_of_getLsbD_eq
    intro k hk
    simp only [BitVec.getLsbD_and, BitVec.getLsbD_append]
    interval_cases k <;> simp
  simp [Statement, Instr.row, encode, TableRow.matchesTransaction, Request.key, h]

end Sys2Proof.Laws.TableRow
end

