-- ==== Sys2Proof/Laws/Sequencer.lean ====
section
/-! SUPPORT. What the pieces of the completion step do: storing the codes, the register images of the arrays, the entries
of an array, the lengths read from `LEN_MEM`. -/

namespace Sys2Proof.Machine

/-! ## Arrays indexed by length -/

@[simp] theorem LenTable.entry_zero (L : Nat) : LenTable.zero.entry L = 0 := by
  unfold LenTable.zero LenTable.entry
  by_cases h : L < Config.nl <;> simp [Vector.getD, h]

theorem LenTable.entry_put (t : LenTable) (L k v : Nat) :
    (t.put L v).entry k = if k = L ∧ L < Config.nl then v else t.entry k := by
  unfold LenTable.put LenTable.entry
  by_cases h : k < Config.nl
  · by_cases hk : L = k
    · subst hk
      simp [Vector.getD, h]
    · simp [Vector.getD, h, hk, Ne.symm hk]
  · have hk : ¬ (k = L ∧ L < Config.nl) := by omega
    simp [Vector.getD, h, hk]

theorem LenTable.entry_of_le (t : LenTable) {L : Nat} (h : Config.nl ≤ L) : t.entry L = 0 := by
  have : ¬ L < Config.nl := by omega
  simp [LenTable.entry, Vector.getD, this]

theorem tableRegisters_toList (t : LenTable) :
    (tableRegisters t).toList = t.toList.map (BitVec.ofNat 32) := rfl

theorem tableRegisters_getD (t : LenTable) (L : Nat) :
    (tableRegisters t).getD L 0#32 = BitVec.ofNat 32 (t.entry L) := by
  have h : tableRegisters t = t.map (BitVec.ofNat 32) := by
    apply Vector.toList_inj.1
    rw [tableRegisters_toList, Vector.toList_map]
  rw [h]
  unfold LenTable.entry
  by_cases hL : L < Config.nl <;> simp [Vector.getD, hL]

/-! ## The lengths read from LEN_MEM -/

@[simp] theorem lengthsOf_length (m : Memory 8) (n : Nat) : (lengthsOf m n).length = n := by
  simp [lengthsOf]

theorem lengthsOf_getD (m : Memory 8) (n i : Nat) (h : i < n) :
    (lengthsOf m n).getD i 0 = (m.read i).toNat := by
  simp [lengthsOf, h]

theorem assignCodes_length : ∀ (lens : List Nat) (nc : LenTable), (assignCodes lens nc).1.length = lens.length
  | [], _ => rfl
  | len :: rest, nc => by
    unfold assignCodes
    split <;> simp [assignCodes_length rest]

/-! ## Storing the codes (R168) -/

theorem storeCodes_wf : ∀ (codes : List Nat) (m : Memory 32) (i : Nat), m.wf = true → (storeCodes m i codes).wf = true
  | [], _, _, h => h
  | _ :: rest, m, i, h => storeCodes_wf rest _ (i + 1) (Memory.write_wf m i _ h)

theorem storeCodes_within (n : Nat) : ∀ (codes : List Nat) (m : Memory 32) (i : Nat), m.within n = true →
    i + codes.length ≤ n → (storeCodes m i codes).within n = true
  | [], _, _, h, _ => h
  | _ :: rest, m, i, h, hl => by
    simp only [List.length_cons] at hl
    exact storeCodes_within n rest _ (i + 1) (Memory.write_within n m i _ h (by omega)) (by omega)

/-- The entries stored and no other: entry `i + j` holds code `j`, every other entry keeps its value. -/
theorem storeCodes_read : ∀ (codes : List Nat) (m : Memory 32) (i a : Nat), m.wf = true →
    (storeCodes m i codes).read a =
      if i ≤ a ∧ a < i + codes.length then BitVec.ofNat 32 (codes.getD (a - i) 0) else m.read a
  | [], m, i, a, _ => by
    have : ¬ (i ≤ a ∧ a < i + 0) := by omega
    simp only [storeCodes, List.length_nil, this, if_false]
  | c :: rest, m, i, a, h => by
    simp only [storeCodes]
    rw [storeCodes_read rest _ (i + 1) a (Memory.write_wf m i _ h), Memory.read_write m i a _ h]
    simp only [List.length_cons]
    by_cases h1 : a = i
    · subst h1
      have h2 : ¬ (a + 1 ≤ a ∧ a < a + 1 + rest.length) := by omega
      have h3 : a ≤ a ∧ a < a + (rest.length + 1) := by omega
      simp
    · by_cases h2 : i + 1 ≤ a ∧ a < i + 1 + rest.length
      · have h3 : i ≤ a ∧ a < i + (rest.length + 1) := by omega
        have h4 : a - i = a - (i + 1) + 1 := by omega
        simp only [h2, h3, and_self, if_true, h4, List.getD_cons_succ]
      · have h3 : ¬ (i ≤ a ∧ a < i + (rest.length + 1)) := by omega
        simp only [h1, h2, h3, if_false]

end Sys2Proof.Machine
end

