-- ==== Sys2Proof/Tests/Slice0.lean ====
section
/-! SUPPORT. Small tests. Expected values come from spec/95_test_vectors.md (row or vector named in each docstring) or from
the example of the rule named. The last part shows a state and operands that meet the hypotheses of each statement. -/

open Sys2Proof Sys2Proof.Machine

namespace Sys2Proof.Tests

/-- The next state of an outcome. -/
def after (o : Host.Outcome State Fault Refusal) : Option State :=
  match o with
  | .next s => some s
  | .fault _ => none
  | .refused _ => none

/-- The state one instruction leads to. -/
def run1 (i : Instr) (s : State) : Option State := after (exec i s)

/-! ## States -/

/-- The lengths of V1. -/
def lenV1 : Memory 8 := [(0, 3), (1, 3), (2, 3), (3, 3), (4, 3), (5, 2), (6, 4), (7, 4)]

/-- IDLE with the inputs of V1 and the interrupt enabled. -/
def idleV1 : State := { State.reset with lenMem := lenV1, nsym := 8#32, maxbits := 4#32, irqEn := true }

/-- BUSY with the inputs of V1. -/
def busyV1 : State := { idleV1 with busy := true }

/-- The counts of V1. -/
def blV1 : LenTable := #v[0, 0, 1, 5, 2, 0, 0, 0, 0, 0, 0, 0, 0, 0, 0, 0]

/-- The `next_code` of V1. -/
def ncV1 : LenTable := #v[0, 0, 1, 7, 16, 0, 0, 0, 0, 0, 0, 0, 0, 0, 0, 0]

/-- DONE after V1. -/
def doneV1 : State :=
  { idleV1 with
    done := true
    codeMem := [(0, 2), (1, 3), (2, 4), (3, 5), (4, 6), (6, 14), (7, 15)]
    blCount := #v[0, 0, 1, 5, 2, 0, 0, 0, 0, 0, 0, 0, 0, 0, 0, 0]
    nextCode := #v[0, 0, 1, 7, 16, 0, 0, 0, 0, 0, 0, 0, 0, 0, 0, 0] }

/-- BUSY with the inputs of V5: symbol 3 has length 3, above `maxbits` 2. -/
def busyV5 : State :=
  { State.reset with lenMem := [(1, 1), (2, 2), (3, 3)], nsym := 4#32, maxbits := 2#32, busy := true, irqEn := true }

/-- ERROR after V5. -/
def errorV5 : State :=
  { busyV5 with busy := false, err := true, errCode := 1#4, errIndex := 3#16, errLen := 3#8 }

/-! ## WellFormed: an ill-formed term for each check, refused -/

theorem test_wf_rdLen : (Instr.rdLen 288).wellFormed 288 = false := by decide
theorem test_wf_wrLen : (Instr.wrLen 288 0).wellFormed 288 = false := by decide
theorem test_wf_rdCode : (Instr.rdCode 65535).wellFormed 288 = false := by decide
theorem test_wf_wrCode : (Instr.wrCode 288 7).wellFormed 288 = false := by decide
theorem test_wf_rdLen_last : (Instr.rdLen 287).wellFormed 288 = true := by decide
theorem test_wf_illegalCmd :
    (Instr.illegalCmd 0).wellFormed 288 = false ∧ (Instr.illegalCmd 1).wellFormed 288 = false
      ∧ (Instr.illegalCmd 2).wellFormed 288 = false ∧ (Instr.illegalCmd 3).wellFormed 288 = true := by decide
theorem test_wf_misaligned : (Instr.misaligned (.read 0x0000C)).wellFormed 288 = false := by decide
theorem test_wf_unmapped_misaligned : (Instr.unmapped (.read 0x00021)).wellFormed 288 = false := by decide
theorem test_wf_unmapped_mapped : (Instr.unmapped (.read 0x4047C)).wellFormed 288 = false := by decide
theorem test_wf_partial_full : (Instr.partialStrobe 0x00010 5 0xF).wellFormed 288 = false := by decide
theorem test_wf_partial_unmapped : (Instr.partialStrobe 0x00020 5 1).wellFormed 288 = false := by decide
theorem test_wf_partial_misaligned : (Instr.partialStrobe 0x00011 5 1).wellFormed 288 = false := by decide
theorem test_applies_assign_busy : Instr.assign.applies true = false := by decide
theorem test_applies_whileBusy_idle : (Instr.cmdWhileBusy 1).applies false = false := by decide

/-! ## Decode: words written out from 30_encoding.md R81, R84 and 20_memory.md R63 -/

/-- Command words (R84), each bit written out. -/
theorem test_decode_commands :
    decodeTableWord 32 0b00000000000000000000000000000000 = some .nop
      ∧ decodeTableWord 32 0b00000000000000000000000000000001 = some .assign
      ∧ decodeTableWord 32 0b00000000000000000000000000000010 = some .clrstat
      ∧ decodeTableWord 32 0b00000000000000000000000100000001 = some (.illegalCmd 0x101)
      ∧ decode 288 true (.cmd 0x3) = .cmdWhileBusy 0x3 := by decide

/-- Register reads: `W = 0`, `off[19:0]` (R63, R81). -/
theorem test_decode_register_reads :
    decodeTableWord 24 0b000000000000000000000 = some .rdId
      ∧ decodeTableWord 24 0b000000000000000000100 = some .rdParam
      ∧ decodeTableWord 24 0b000000000000000001000 = some .rdCmd
      ∧ decodeTableWord 24 0b000000000000000001100 = some .rdStatus
      ∧ decodeTableWord 24 0b000000000000000010000 = some .rdNsym
      ∧ decodeTableWord 24 0b000000000000000010100 = some .rdMaxbits
      ∧ decodeTableWord 24 0b000000000000000011000 = some .rdIrqEn
      ∧ decodeTableWord 24 0b000000000000000011100 = some .rdErrInfo := by decide

/-- Array reads: the window bits, the index, `00` (R70): `L = 5`, `L = 15`, `i = 5`, `i = 287`. -/
theorem test_decode_array_reads :
    decodeTableWord 24 0b000000000000001010100 = some (.rdBlCount 5)
      ∧ decodeTableWord 24 0b000000000000010111100 = some (.rdNextCode 15)
      ∧ decodeTableWord 24 0b001000000000000010100 = some (.rdLen 5)
      ∧ decodeTableWord 24 0b010000000010001111100 = some (.rdCode 287) := by decide

/-- Register writes: `W = 1` (R81). -/
theorem test_decode_register_writes :
    decodeTableWord 24 0b100000000000000001000 = some (.wrCmd 0)
      ∧ decodeTableWord 24 0b100000000000000010000 = some (.wrNsym 0)
      ∧ decodeTableWord 24 0b100000000000000010100 = some (.wrMaxbits 0)
      ∧ decodeTableWord 24 0b100000000000000011000 = some (.wrIrqEn 0)
      ∧ decodeTableWord 24 0b101000000000000010100 = some (.wrLen 5 0) := by decide

/-- Writes to read-only places (R104). -/
theorem test_decode_read_only_writes :
    decodeTableWord 24 0b100000000000000000000 = some (.wrId 0)
      ∧ decodeTableWord 24 0b100000000000000000100 = some (.wrParam 0)
      ∧ decodeTableWord 24 0b100000000000000001100 = some (.wrStatus 0)
      ∧ decodeTableWord 24 0b100000000000000011100 = some (.wrErrInfo 0)
      ∧ decodeTableWord 24 0b100000000000001000100 = some (.wrBlCount 1 0)
      ∧ decodeTableWord 24 0b100000000000010000100 = some (.wrNextCode 1 0)
      ∧ decodeTableWord 24 0b110000000000000000000 = some (.wrCode 0 0) := by decide

/-- A24, A38, A27, A30, A33: the refused rows and the order of the checks (R100). -/
theorem test_decode_refused :
    decodeTableWord 24 0x00000E = some (.misaligned (.read 0x0000E))
      ∧ decodeBus 288 (.write 0x0000E 0 1) = .misaligned (.write 0x0000E 0 1)
      ∧ decodeTableWord 24 0x00003C = some (.unmapped (.read 0x0003C))
      ∧ decodeTableWord 24 0x040480 = some (.unmapped (.read 0x40480))
      ∧ decodeBus 288 (.write 0x00010 5 1) = .partialStrobe 0x00010 5 1 := by decide

/-- The edges of R64's ranges, for `N_MAX = 288`. -/
theorem test_decode_map_edges :
    decodeOffset 288 0x0001C = .mapped .errInfo ∧ decodeOffset 288 0x00020 = .unmapped
      ∧ decodeOffset 288 0x00040 = .mapped (.blCount 0) ∧ decodeOffset 288 0x000BC = .mapped (.nextCode 15)
      ∧ decodeOffset 288 0x000C0 = .unmapped ∧ decodeOffset 288 0x3FFFC = .unmapped
      ∧ decodeOffset 288 0x40000 = .mapped (.len 0) ∧ decodeOffset 288 0x7FFFC = .unmapped
      ∧ decodeOffset 65535 0xBFFF8 = .mapped (.code 65534) ∧ decodeOffset 65535 0xBFFFC = .unmapped
      ∧ decodeOffset 65535 0xC0000 = .unmapped := by decide

/-- Bytes that are no transaction, by name: three bytes, a stray bit, a read with data (log 5). -/
theorem test_decode_bytes_rejected :
    (decodeBytes 288 false [0, 0, 0]).toOption = none
      ∧ (unpackBus 0x0000000000200000#64).toOption = none ∧ (unpackBus 0x0000000001000000#64).toOption = none := by
  decide

/-- The encoder on the same words. -/
theorem test_encode_words :
    encode (.wrLen 5 2) = .bus (.write 0x40014 2 0xF) ∧ encode (.rdNextCode 15) = .bus (.read 0x000BC)
      ∧ encode .clrstat = .cmd 2 := by decide

/-- R95's example lines and their keys. -/
theorem test_script_encoding :
    (wr (.len 5) 2).encoding = (0x140014#21, some 2) ∧ (rd .status).encoding = (0x00000C#21, none) := by decide

/-- R93: a raw offset, and the assertions of a line. -/
theorem test_script_asserts :
    (ScriptLine.rd (.raw 0x0000E) (some 0) .error).asserts (.read 0 .error) = true
      ∧ (ScriptLine.wr (.target .nsym) 5 1 .error).asserts (.write .okay) = false := by decide

/-- R12: `MemRead` at `CCA_BASE + 0xC` is a read of `STATUS`; an address past the window is not the block's. -/
theorem test_window :
    memRead ⟨288, 0x1000⟩ 0x100C = some (.read 0x0000C) ∧ memWrite ⟨288, 0x1000⟩ 0x101000 7 = none := by decide

/-! ## Reads -/

/-- A1. -/
theorem test_rdId : (run1 .rdId idleV1).map (·.response) = some (some (.read 0x43434131 .okay)) := by decide
/-- A2, A3. -/
theorem test_rdParam :
    (run1 .rdParam idleV1).map (·.response) = some (some (.read 0x010F0120 .okay))
      ∧ (run1 .rdParam (State.resetOf ⟨65535, 0⟩)).map (·.response) = some (some (.read 0x010FFFFF .okay)) := by
  decide
/-- A4. -/
theorem test_rdCmd : (run1 .rdCmd busyV1).map (·.response) = some (some (.read 0 .okay)) := by decide
/-- V5, C7: ERROR with code 1 reads 0x104, with `WIGN` 0x10C. -/
theorem test_rdStatus :
    (run1 .rdStatus errorV5).map (·.response) = some (some (.read 0x104 .okay))
      ∧ (run1 .rdStatus { errorV5 with wign := true }).map (·.response) = some (some (.read 0x10C .okay)) := by
  decide
/-- R110. -/
theorem test_rdNsym :
    (run1 .rdNsym { idleV1 with nsym := 0x12345 }).map (·.response) = some (some (.read 0x12345 .okay)) := by decide
/-- R112. -/
theorem test_rdMaxbits :
    (run1 .rdMaxbits { idleV1 with maxbits := 16 }).map (·.response) = some (some (.read 16 .okay)) := by decide
/-- R114, A11. -/
theorem test_rdIrqEn :
    (run1 .rdIrqEn State.reset).map (·.response) = some (some (.read 0 .okay))
      ∧ (run1 .rdIrqEn idleV1).map (·.response) = some (some (.read 1 .okay)) := by decide
/-- R116. -/
theorem test_rdErrInfo :
    (run1 .rdErrInfo errorV5).map (·.response) = some (some (.read 0x00030003 .okay)) := by decide
/-- A20, A22. -/
theorem test_rdBlCount :
    (run1 (.rdBlCount 3) doneV1).map (·.response) = some (some (.read 5 .okay))
      ∧ (run1 (.rdBlCount 3) { doneV1 with done := false }).map (·.response) = some (some (.read 0 .okay)) := by
  decide
/-- A21. -/
theorem test_rdNextCode :
    (run1 (.rdNextCode 4) doneV1).map (·.response) = some (some (.read 16 .okay))
      ∧ (run1 (.rdNextCode 5) doneV1).map (·.response) = some (some (.read 0 .okay)) := by decide
/-- A17. -/
theorem test_rdLen : (run1 (.rdLen 3) busyV1).map (·.response) = some (some (.read 3 .okay)) := by decide
/-- A18, A19, A23; P3: `CODE[7]` reads 0 once `NSYM` is 4. -/
theorem test_rdCode :
    (run1 (.rdCode 6) doneV1).map (·.response) = some (some (.read 14 .okay))
      ∧ (run1 (.rdCode 7) { doneV1 with nsym := 4 }).map (·.response) = some (some (.read 0 .okay))
      ∧ (run1 (.rdCode 0) busyV1).map (·.response) = some (some (.read 0 .okay)) := by decide

/-! ## Writes -/

/-- A6, A8. -/
theorem test_wrNsym :
    (run1 (.wrNsym 0xFFFFFFFF) idleV1).map (·.nsym) = some 0xFFFFFFFF
      ∧ (run1 (.wrNsym 5) busyV1).map (fun s => (s.nsym, s.wign)) = some (8, true) := by decide
/-- A9: the same value again clears `DONE`. -/
theorem test_wrMaxbits :
    (run1 (.wrMaxbits 4) doneV1).map (fun s => (s.maxbits, visibleState s)) = some (4, .idle) := by decide
/-- A11, A12 and R115's corner case. -/
theorem test_wrIrqEn :
    (run1 (.wrIrqEn 1) { busyV1 with irqEn := false }).map (fun s => (s.irqEn, s.wign)) = some (true, false)
      ∧ (run1 (.wrIrqEn 0xFFFFFFFE) idleV1).map (·.irqEn) = some false := by decide
/-- A16, A15. -/
theorem test_wrLen :
    (run1 (.wrLen 0 0x100) State.reset).map (·.lenMem) = some [(0, 255)]
      ∧ (run1 (.wrLen 0 255) State.reset).map (·.lenMem) = some [(0, 255)] := by decide
/-- A length of 0 written back removes the entry: equal memories are equal lists (R38). -/
theorem test_wrLen_zero :
    (run1 (.wrLen 0 0) doneV1).map (·.lenMem) = some lenV1.tail := by decide

/-! ## Refused transactions -/

/-- A36, A37: `ERROR`, still DONE, `CODE_MEM[0]` unchanged. -/
theorem test_read_only_writes :
    ∀ i ∈ [Instr.wrId 0, .wrParam 0, .wrStatus 0, .wrErrInfo 0, .wrBlCount 1 0, .wrNextCode 1 0, .wrCode 0 7],
      run1 i doneV1 = some { doneV1 with response := some (.write .error) } := by decide
/-- A24, A25. -/
theorem test_misaligned :
    (run1 (.misaligned (.read 0x0000E)) doneV1).map (·.response) = some (some (.read 0 .error))
      ∧ run1 (.misaligned (.write 0x00009 1 0xF)) idleV1 = some { idleV1 with response := some (.write .error) } := by
  decide
/-- A26, A31. -/
theorem test_unmapped :
    (run1 (.unmapped (.write 0x00020 1 0xF)) idleV1).map (·.response) = some (some (.write .error))
      ∧ (run1 (.unmapped (.read 0x80480)) doneV1).map (·.response) = some (some (.read 0 .error)) := by decide
/-- A34: a partial write while BUSY does not set `WIGN`. -/
theorem test_partialStrobe :
    run1 (.partialStrobe 0x40000 5 0) busyV1 = some { busyV1 with response := some (.write .error) } := by decide

/-! ## Commands (95_test_vectors.md section 3) -/

/-- C1 to C4. -/
theorem test_nop :
    (run1 .nop doneV1).map statusWord = some 0x2 ∧ (run1 .nop busyV1).map statusWord = some 0x1
      ∧ (run1 .nop errorV5).map statusWord = some 0x104 := by decide
/-- C5, C6, C7, C8. -/
theorem test_assign :
    (run1 .assign doneV1).map statusWord = some 0x1 ∧ (run1 .assign errorV5).map statusWord = some 0x10C
      ∧ (run1 .assign busyV1).map statusWord = some 0x9 := by decide
/-- C9, C12, C13. -/
theorem test_clrstat :
    (run1 .clrstat busyV1).map statusWord = some 0x9 ∧ (run1 .clrstat doneV1).map statusWord = some 0
      ∧ (run1 .clrstat errorV5).map (fun s => (statusWord s, errInfoWord s)) = some (0, 0) := by decide
/-- C14, C15, C17. -/
theorem test_illegalCmd :
    (run1 (.illegalCmd 0x3) idleV1).map statusWord = some 0x404
      ∧ (run1 (.illegalCmd 0x101) doneV1).map statusWord = some 0x404
      ∧ (run1 (.illegalCmd 0x3) { errorV5 with errCode := 4 }).map statusWord = some 0x40C := by decide
/-- C10, C3. -/
theorem test_cmdWhileBusy :
    (run1 (.cmdWhileBusy 0x3) busyV1).map statusWord = some 0x9
      ∧ (run1 (.cmdWhileBusy 0) busyV1).map statusWord = some 0x1 := by decide
/-- R108; C18: the first error is kept. -/
theorem test_wrCmd :
    (run1 (.wrCmd 1) idleV1).map statusWord = some 0x1
      ∧ (run1 (.wrCmd 0x80000001) errorV5).map statusWord = some 0x10C := by decide

/-! ## The function and the completion step -/

/-- V1: the source's RFC example. -/
theorem test_v1 :
    canonAssign 288 lenV1 8 4 = .ok [2, 3, 4, 5, 6, 0, 14, 15] blV1 ncV1 := by decide
/-- V2. -/
theorem test_v2 :
    canonAssign 288 [(1, 1), (2, 2), (3, 2)] 4 2 =
      .ok [0, 0, 2, 3] #v[0, 1, 2, 0, 0, 0, 0, 0, 0, 0, 0, 0, 0, 0, 0, 0] #v[0, 1, 4, 0, 0, 0, 0, 0, 0, 0, 0, 0, 0, 0, 0, 0] := by
  decide
/-- S11, S12: over-subscribed lengths are not checked. -/
theorem test_over_subscribed :
    canonAssign 288 [(0, 3), (1, 1), (2, 3), (3, 2), (4, 3)] 5 3 =
      .ok [6, 0, 7, 2, 8] #v[0, 1, 1, 3, 0, 0, 0, 0, 0, 0, 0, 0, 0, 0, 0, 0] #v[0, 1, 3, 9, 0, 0, 0, 0, 0, 0, 0, 0, 0, 0, 0, 0] := by
  decide
/-- S17, S18, S19, S20. -/
theorem test_len_range :
    canonAssign 288 [(0, 5), (2, 9)] 3 4 = .err .lenRange 0 5
      ∧ canonAssign 288 [(0, 1), (1, 1), (2, 9)] 3 1 = .err .lenRange 2 9
      ∧ canonAssign 288 [(0, 1), (2, 255)] 3 15 = .err .lenRange 2 255 := by decide
/-- S21, S22, S23, S25. -/
theorem test_range_errors :
    canonAssign 288 [] 2 16 = .err .maxbitsRange 0 0 ∧ canonAssign 288 [] 289 16 = .err .nsymRange 0 0
      ∧ canonAssign 288 [] 288 16 = .err .maxbitsRange 0 0
      ∧ canonAssign 288 [] 0xFFFFFFFF 4 = .err .nsymRange 0 0 := by decide
/-- P1: the completion step of V1; the interrupt rises. -/
theorem test_complete_success :
    (after (step busyV1)) = some doneV1 ∧ irq doneV1 = true := by decide
/-- V5, E1. -/
theorem test_complete_failure :
    after (step busyV5) = some errorV5 ∧ statusWord errorV5 = 0x104 ∧ irq errorV5 = true := by decide
/-- P4b: with the completion step first, the write lands in DONE and clears it. -/
theorem test_race :
    (after (step { busyV1 with schedule := [.transaction (.bus (.write 0x40004 2 0xF))] })).map statusWord = some 0x9
      ∧ (after (step { doneV1 with schedule := [.transaction (.bus (.write 0x40004 2 0xF))] })).map
          (fun s => (statusWord s, s.lenMem.read 1)) = some (0, 2) := by decide
/-- E10: reset while BUSY. -/
theorem test_reset_while_busy :
    after (step { busyV1 with schedule := [.reset] }) = some State.reset := by decide
/-- The host's word for `ASSIGN`, run as the first transaction after reset. -/
theorem test_first_transaction :
    (after (step (State.reset.withFetchWord 32 1))).map statusWord = some 0x1
      ∧ (after (step (State.reset.withFetchWord 24 0x000004))).map (·.response)
          = some (some (.read 0x010F0120 .okay)) := by decide
/-- R244: `LEN_RANGE` at index 3 takes 6 cycles, V1 takes 2*8 + 4 + 2 = 22. -/
theorem test_reference_cycles :
    (refAfter 288 [(1, 1), (2, 2), (3, 3)] 4 2 6).result = some (.err .lenRange 3 3)
      ∧ (refAfter 288 [(1, 1), (2, 2), (3, 3)] 4 2 5).result = none
      ∧ (refAfter 288 lenV1 8 4 22).result = some (.ok [2, 3, 4, 5, 6, 0, 14, 15] blV1 ncV1) := by decide

/-! ## The invariant holds somewhere in every visible state -/

theorem idleV1_inv : idleV1.Inv where
  cfgWf := by decide
  lenWf := by decide
  lenWithin := by decide
  codeWf := by decide
  codeWithin := by decide
  oneVisible := by decide
  quietErr := by decide
  knownErr := fun h => absurd h (by decide)
  results := fun h => absurd h (by decide)

theorem busyV1_inv : busyV1.Inv where
  cfgWf := by decide
  lenWf := by decide
  lenWithin := by decide
  codeWf := by decide
  codeWithin := by decide
  oneVisible := by decide
  quietErr := by decide
  knownErr := fun h => absurd h (by decide)
  results := fun h => absurd h (by decide)

theorem doneV1_results : ResultsHold doneV1 :=
  ⟨[2, 3, 4, 5, 6, 0, 14, 15], blV1, ncV1, by decide, by decide, by decide⟩

theorem doneV1_inv : doneV1.Inv where
  cfgWf := by decide
  lenWf := by decide
  lenWithin := by decide
  codeWf := by decide
  codeWithin := by decide
  oneVisible := by decide
  quietErr := by decide
  knownErr := fun h => absurd h (by decide)
  results := fun _ => doneV1_results

theorem errorV5_inv : errorV5.Inv where
  cfgWf := by decide
  lenWf := by decide
  lenWithin := by decide
  codeWf := by decide
  codeWithin := by decide
  oneVisible := by decide
  quietErr := by decide
  knownErr := fun _ => ⟨.lenRange, by decide⟩
  results := fun h => absurd h (by decide)

/-! ## A state and operands for the hypotheses of each statement, clause by clause -/

theorem witness_DecodeInvertsEncode :
    (Instr.wrLen 287 0xFFFFFFFF).wellFormed 288 = true ∧ (Instr.wrLen 287 0xFFFFFFFF).applies false = true
      ∧ (Instr.cmdWhileBusy 1).wellFormed 288 = true ∧ (Instr.cmdWhileBusy 1).applies true = true
      ∧ (Instr.unmapped (.read 0x40480)).wellFormed 288 = true
      ∧ (Instr.partialStrobe 0xBFFF8 5 0).wellFormed 65535 = true := by decide

theorem witness_RequestsDecodeInCheckOrder :
    aligned (Request.read 0xFFFFF).off = false
      ∧ aligned (Request.write 0xC0000 1 0xF).off = true ∧ inUnmappedSet 288 (Request.write 0xC0000 1 0xF).off = true
      ∧ aligned (Request.read 0x4047C).off = true ∧ inUnmappedSet 288 (Request.read 0x4047C).off = false := by decide

/-- A state whose next input is a transaction. -/
def nextIs (e : Event) (s : State) : State := { s with schedule := [e] }

theorem witness_StepRunsTheDecodedTransaction :
    (nextIs (.transaction (.cmd 1)) idleV1).schedule = .transaction (.cmd 1) :: [] := rfl

theorem witness_SequencerRunsOnlyWhileBusy :
    (nextIs .sequencer busyV1).schedule = .sequencer :: [] ∧ (nextIs .sequencer busyV1).busy = true
      ∧ (nextIs .sequencer idleV1).schedule = .sequencer :: [] ∧ (nextIs .sequencer idleV1).busy = false
      ∧ busyV1.schedule = [] ∧ busyV1.busy = true ∧ idleV1.schedule = [] ∧ idleV1.busy = false := by decide

theorem witness_TableReadsAreGated :
    doneV1.Inv ∧ doneV1.done = true ∧ 1 ≤ (4#4).toNat ∧ (4#4).toNat ≤ doneV1.maxbits.toNat
      ∧ (1#4).toNat ≤ doneV1.maxbits.toNat :=
  ⟨doneV1_inv, by decide⟩

theorem witness_LenReadAnswers : (287#16).toNat < idleV1.cfg.nMax := by decide

theorem witness_CodeReadIsGated :
    (287#16).toNat < doneV1.cfg.nMax ∧ doneV1.Inv ∧ doneV1.lenMem.read (287#16).toNat = 0#8 :=
  ⟨by decide, doneV1_inv, by decide⟩

theorem witness_ReadsChangeNothing :
    (nextIs (.transaction (.bus (.read 0x0000E))) doneV1).schedule = .transaction (.bus (.read 0x0000E)) :: []
      ∧ (after (step (nextIs (.transaction (.bus (.read 0x0000E))) doneV1))).isSome = true := by decide

theorem witness_InputRegisterWrites : errorV5.busy = false ∧ busyV5.busy = true := by decide

theorem witness_LenWriteStoresSaturated :
    busyV1.lenMem.wf = true ∧ (287#16).toNat < busyV1.cfg.nMax ∧ busyV1.busy = true
      ∧ doneV1.lenMem.wf = true ∧ (0#16).toNat < doneV1.cfg.nMax ∧ doneV1.busy = false := by decide

theorem witness_ReadOnlyWritesAreRefused :
    Instr.wrCode 0 7 ∈ [Instr.wrId 7, .wrParam 7, .wrStatus 7, .wrErrInfo 7, .wrBlCount 0 7, .wrNextCode 0 7,
      .wrCode 0 7] := by decide

theorem witness_RefusedRequestsChangeNothing :
    (nextIs (.transaction (.bus (.read 0x0000E))) busyV1).schedule = .transaction (.bus (.read 0x0000E)) :: []
      ∧ aligned (Request.read 0x0000E).off = false ∧ inUnmappedSet 288 (Request.read 0x0003C).off = true
      ∧ (Request.write 0x00010 5 0 = .write 0x00010 5 0 ∧ (0 : Strobe) ≠ 0xF#4) := by decide

theorem witness_ErrorAnswerMeansNoChange :
    (run1 (.misaligned (.read 0x0000E)) doneV1).map (·.response) = some (some (.read 0#32 .error))
      ∧ (run1 (.wrStatus 0) doneV1).map (·.response) = some (some (.write .error)) := by decide

theorem witness_AssignStartsOrIsRefused :
    (doneV1.busy = false ∧ doneV1.err = false ∧ doneV1.Inv ∧ doneV1.done = true ∧ (run1 .assign doneV1).isSome = true)
      ∧ (errorV5.busy = false ∧ errorV5.err = true)
      ∧ (State.reset.busy = false ∧ State.reset.err = false ∧ State.reset.nsym = 0#32
          ∧ State.reset.maxbits.toNat ≤ 15 ∧ (run1 .assign State.reset).isSome = true) :=
  ⟨⟨by decide, by decide, doneV1_inv, by decide⟩, by decide, by decide⟩

theorem witness_ClrstatClearsStatus : errorV5.busy = false := by decide

theorem witness_IllegalCommandRaisesOrIsIgnored :
    doneV1.busy = false ∧ doneV1.err = false ∧ errorV5.busy = false ∧ errorV5.err = true ∧ (3#32) ≠ 0#32
      ∧ (3#32) ≠ 1#32 ∧ (3#32) ≠ 2#32 := by decide

theorem witness_CommandWhileBusyOnlySetsWign : busyV1.busy = true := by decide

theorem witness_VisibleStateTransitions :
    visibleState errorV5 ≠ .mixed ∧ Instr.assign.wellFormed errorV5.cfg.nMax = true
      ∧ Instr.assign.applies errorV5.busy = true ∧ (run1 .assign errorV5).isSome = true
      ∧ visibleState busyV1 = .busy := by decide

theorem witness_ErrorPriority :
    288 < (289#32).toNat ∧ (288#32).toNat ≤ 288 ∧ 15 < (16#32).toNat ∧ (4#32).toNat ≤ 288 ∧ (2#32).toNat ≤ 15
      ∧ 3 < (4#32).toNat ∧ (2#32).toNat < (busyV5.lenMem.read 3).toNat
      ∧ (∀ j, j < 3 → (busyV5.lenMem.read j).toNat ≤ (2#32).toNat)
      ∧ (∀ i, i < (8#32).toNat → (lenV1.read i).toNat ≤ (4#32).toNat) := by decide

/-- V1 meets the hypotheses of the statements about a successful result: ClosedForms, UnusedEntriesAreZero,
NoValueExceedsItsRegister, KraftSumIsTheLastNextCode, EqualLengthsAreConsecutive (symbols 3 and 4), CodesArePrefixFree
(symbols 5 and 6, lengths 2 and 4). -/
theorem witness_successful_result :
    canonAssign 288 lenV1 8 4 = .ok [2, 3, 4, 5, 6, 0, 14, 15] blV1 ncV1 ∧ 288 ≤ 65535
      ∧ 1 ≤ (4#32).toNat ∧ kraftSum (4#32).toNat (lengthsOf lenV1 (8#32).toNat) ≤ 2 ^ (4#32).toNat
      ∧ (3 < 4 ∧ 4 < (8#32).toNat ∧ lenV1.read 3 ≠ 0#8 ∧ lenV1.read 4 = lenV1.read 3)
      ∧ (5 < (8#32).toNat ∧ 6 < (8#32).toNat ∧ 5 ≠ 6 ∧ lenV1.read 5 ≠ 0#8 ∧ lenV1.read 6 ≠ 0#8) := by decide

/-- S1 meets the clause `maxbits = 0`, and an unused symbol below `n`. -/
theorem witness_zero_maxbits :
    canonAssign 288 [] 3 0 = .ok [0, 0, 0] LenTable.zero LenTable.zero ∧ (0#32).toNat = 0
      ∧ 2 < (3#32).toNat ∧ Memory.read ([] : Memory 8) 2 = 0#8 := by decide

/-- The register clauses of KraftSumIsTheLastNextCode: V1 (Kraft sum 2^4, complete), and DONE with `maxbits = 0`. -/
theorem witness_KraftSumIsTheLastNextCode :
    doneV1.Inv ∧ doneV1.done = true ∧ 1 ≤ doneV1.maxbits.toNat
      ∧ kraftSum doneV1.maxbits.toNat (lengthsOf doneV1.lenMem doneV1.nsym.toNat) = 16
      ∧ 16 ≤ 2 ^ doneV1.maxbits.toNat ∧ 6 < doneV1.nsym.toNat ∧ doneV1.lenMem.read 6 ≠ 0#8
      ∧ ({ State.reset with done := true } : State).Inv ∧ State.reset.maxbits.toNat = 0 :=
  ⟨doneV1_inv, by decide, by decide, by decide, by decide, by decide, by decide,
    ⟨by decide, by decide, by decide, by decide, by decide, by decide, by decide, fun h => absurd h (by decide),
      fun _ => ⟨[], LenTable.zero, LenTable.zero, by decide, by decide, by decide⟩⟩, by decide⟩

theorem witness_ResultIgnoresEntriesBeyondNsym :
    ∀ i, i < (2#32).toNat →
      Memory.read ([(0, 1), (1, 1), (2, 9)] : Memory 8) i = Memory.read ([(0, 1), (1, 1)] : Memory 8) i := by decide

theorem witness_SuccessfulCompletionCommits :
    (nextIs .sequencer busyV1).Inv ∧ (nextIs .sequencer busyV1).busy = true
      ∧ (nextIs .sequencer busyV1).schedule = .sequencer :: []
      ∧ canonAssign busyV1.cfg.nMax busyV1.lenMem busyV1.nsym busyV1.maxbits =
          .ok [2, 3, 4, 5, 6, 0, 14, 15] blV1 ncV1 :=
  ⟨⟨by decide, by decide, by decide, by decide, by decide, by decide, by decide,
    fun h => absurd h (by decide), fun h => absurd h (by decide)⟩, by decide⟩

theorem witness_FailedCompletionRecordsItsError :
    busyV5.cfg.wf = true ∧ (nextIs .sequencer busyV5).busy = true
      ∧ (nextIs .sequencer busyV5).schedule = .sequencer :: []
      ∧ canonAssign busyV5.cfg.nMax busyV5.lenMem busyV5.nsym busyV5.maxbits = .err .lenRange 3 3 := by decide

theorem witness_ResultRegistersHoldCountsAndNextCodes :
    doneV1.Inv ∧ doneV1.done = true ∧ (1 ≤ (4#4).toNat ∧ (4#4).toNat ≤ doneV1.maxbits.toNat)
      ∧ ¬ (1 ≤ (0#4).toNat ∧ (0#4).toNat ≤ doneV1.maxbits.toNat)
      ∧ ¬ (1 ≤ (5#4).toNat ∧ (5#4).toNat ≤ doneV1.maxbits.toNat) :=
  ⟨doneV1_inv, by decide⟩

/-- One step from each visible state: the hypotheses of OnlyAssignSetsBusy, WhatSetsAndClearsDone,
FirstErrorIsKeptUntilClrstat, WignIsSticky, OnlyCompletionWritesResults, ParametersAreConstant, StepKeepsTheInvariant. -/
theorem witness_steps :
    idleV1.Inv ∧ busyV1.Inv ∧ doneV1.Inv ∧ errorV5.Inv ∧ step idleV1 = .next idleV1 ∧ step busyV1 = .next doneV1
      ∧ step doneV1 = .next doneV1 ∧ step errorV5 = .next errorV5 ∧ step busyV5 = .next errorV5 :=
  ⟨idleV1_inv, busyV1_inv, doneV1_inv, errorV5_inv, rfl, by simp only [step]; congr 1, rfl, rfl, by
    simp only [step]; congr 1⟩

/-- A step that sets `WIGN`, and one that clears it. -/
theorem witness_WignIsSticky :
    (after (step (nextIs (.transaction (.cmd 1)) errorV5))).map (·.wign) = some true ∧ errorV5.wign = false
      ∧ (after (step (nextIs (.transaction (.cmd 2)) { errorV5 with wign := true }))).map (·.wign) = some false := by
  decide

theorem witness_InputsAreFrozenWhileBusy :
    Event.reset ∉ (nextIs (.transaction (.cmd 2)) busyV1).schedule
      ∧ (∀ j, j ≤ 1 → ∃ u, Host.Core.run core j (nextIs (.transaction (.cmd 2)) busyV1) = .next u
          ∧ State.busy u = true)
      ∧ ∃ t, Host.Core.run core 1 (nextIs (.transaction (.cmd 2)) busyV1) = .next t := by
  refine ⟨by decide, fun j hj => ?_, ⟨_, rfl⟩⟩
  interval_cases j
  · exact ⟨_, rfl, rfl⟩
  · exact ⟨_, rfl, rfl⟩

theorem witness_IrqFollowsItsCauses :
    doneV1.Inv ∧ irq doneV1 = true ∧ doneV1.done = true ∧ writesInput (.wrLen 287 1) = true
      ∧ (Instr.wrLen 287 1).wellFormed doneV1.cfg.nMax = true ∧ isRead .rdStatus = true
      ∧ errorV5.Inv ∧ irq errorV5 = true :=
  ⟨doneV1_inv, by decide, by decide, by decide, by decide, by decide, errorV5_inv, by decide⟩

theorem witness_ResetClearsEverything : (nextIs .reset busyV1).schedule = .reset :: [] := rfl

theorem witness_BusyBlockCompletes : busyV1.busy = true ∧ Event.reset ∉ busyV1.schedule := by decide

theorem witness_WaitIdleEndsWithTheOperation :
    ({ busyV1 with schedule := waitIdle 2 ++ [] } : State).Inv ∧ busyV1.busy = true ∧ 1 < 2 :=
  ⟨⟨by decide, by decide, by decide, by decide, by decide, by decide, by decide,
    fun h => absurd h (by decide), fun h => absurd h (by decide)⟩, by decide⟩

/-- Two states that agree on everything but a code the gate of R121 hides (P3). -/
def doneV1Stale : State := { doneV1 with codeMem := doneV1.codeMem ++ [(8, 15)] }

theorem doneV1Stale_inv : doneV1Stale.Inv where
  cfgWf := by decide
  lenWf := by decide
  lenWithin := by decide
  codeWf := by decide
  codeWithin := by decide
  oneVisible := by decide
  quietErr := by decide
  knownErr := fun h => absurd h (by decide)
  results := fun _ => ⟨[2, 3, 4, 5, 6, 0, 14, 15], blV1, ncV1, by decide, by decide, by decide⟩

theorem witness_ReadsDependOnlyOnCurrentInputs :
    doneV1.Inv ∧ doneV1Stale.Inv ∧ SameControl doneV1 doneV1Stale ∧ isRead (.rdCode 8) = true
      ∧ (run1 (.rdCode 8) doneV1).isSome = true ∧ (run1 (.rdCode 8) doneV1Stale).isSome = true :=
  ⟨doneV1_inv, doneV1Stale_inv, by unfold SameControl; decide, by decide, by decide, by decide⟩

theorem witness_HiddenResultsAreUnobservable :
    doneV1.Inv ∧ doneV1Stale.codeMem.wf = true ∧ SameView doneV1 doneV1Stale ∧ doneV1 ≠ doneV1Stale
      ∧ ∃ s', step doneV1 = .next s' := by
  refine ⟨doneV1_inv, by decide, ⟨by unfold SameControl; decide, rfl, rfl, fun _ => ⟨by decide, rfl, rfl⟩⟩, by decide,
    ⟨_, rfl⟩⟩

theorem witness_ReferenceSequencerMeetsItsCycleCounts :
    canonAssign 288 lenV1 8 4 = .ok [2, 3, 4, 5, 6, 0, 14, 15] blV1 ncV1
      ∧ 21 < refCycles 8 4 (.ok [2, 3, 4, 5, 6, 0, 14, 15] blV1 ncV1) := by decide

/-! ### The call of R176

Each clause of CallReturnsCanonicalCodes at a start state and operands that meet its hypotheses, with the call run to its
return in turns of the host and the sequencer by alternation. -/

/-- An instance with three slots after reset. -/
def idle3 : State := State.resetOf ⟨3, 0⟩

theorem idle3_inv : idle3.Inv :=
  ⟨by decide, by decide, by decide, by decide, by decide, by decide, fun _ => by decide,
    fun h => absurd h (by decide), fun h => absurd h (by decide)⟩

/-- The result of the call under alternating turns. -/
def callAlternating (lens : List Word) (mb : Word) (s : State) : CallPhase :=
  (runCall lens mb (fairTurns (List.replicate (2 * lens.length + 9) 1)) s).phase

/-- `k = N_MAX` and `maxbits = 15`: R170 gives the codes 0, 2^14, 2^14 + 1. -/
theorem witness_CallReturnsCanonicalCodes_codes :
    [1#32, 15#32, 15#32].length = idle3.cfg.nMax ∧ (15#32).toNat ≤ 15
      ∧ (∀ w ∈ [1#32, 15#32, 15#32], w.toNat ≤ (15#32).toNat)
      ∧ callAlternating [1, 15, 15] 15 idle3 = .returned (.codes [0, 16384, 16385]) :=
  ⟨by decide, by decide, by simp, by decide⟩

/-- `maxbits = 16`: code 3 (R204). -/
theorem witness_CallReturnsCanonicalCodes_maxbits :
    [1#32, 1#32].length ≤ idle3.cfg.nMax ∧ 15 < (16#32).toNat
      ∧ callAlternating [1, 1] 16 idle3 = .returned (.failed 3 0) := by decide

/-- Two lengths above `maxbits`, the first of them 300, which counts as 255 (R85): code 1 at the smaller index (R202). -/
theorem witness_CallReturnsCanonicalCodes_tooLong :
    [1#32, 300#32, 3#32].length ≤ idle3.cfg.nMax ∧ (2#32).toNat ≤ 15
      ∧ (2#32).toNat < ([1#32, 300#32, 3#32].getD 1 0#32).toNat
      ∧ (∀ j, j < 1 → ([1#32, 300#32, 3#32].getD j 0#32).toNat ≤ (2#32).toNat)
      ∧ callAlternating [1, 300, 3] 2 idle3 = .returned (.failed 1 0x00FF0001) := by decide

/-- One length more than there are slots: code 2 (R203). -/
theorem witness_CallReturnsCanonicalCodes_tooMany :
    idle3.cfg.nMax < [0#32, 1#32, 2#32, 2#32].length ∧ [0#32, 1#32, 2#32, 2#32].length < 2 ^ 32
      ∧ callAlternating [0, 1, 2, 2] 2 idle3 = .returned (.failed 2 0) := by decide

/-- From a BUSY block whose operation fails: the opening wait, then `clrstat`, then V2. -/
theorem witness_CallReturnsCanonicalCodes_busy :
    busyV5.err = false ∧ callAlternating [0, 1, 2, 2] 2 busyV5 = .returned (.codes [0, 0, 2, 3]) := by decide

/-- No length at all, from ERROR. -/
theorem witness_CallReturnsCanonicalCodes_empty :
    errorV5.Inv ∧ (∀ g ∈ List.replicate 9 1, 1 ≤ g) ∧ callAlternating [] 0 errorV5 = .returned (.codes []) :=
  ⟨errorV5_inv, by decide, by decide⟩

theorem witness_ResetStateHasTheInvariant : (⟨65535, 0⟩ : Config).wf = true ∧ (⟨1, 0⟩ : Config).wf = true := by
  simp [Config.wf]

theorem witness_ReachableStatesKeepTheSpecsInvariants : Reachable { State.resetOf ⟨288, 0⟩ with schedule := [] } :=
  .reset _ _ (by decide)

end Sys2Proof.Tests
end

/-! # No step changes the parameters, and none depends on `CCA_BASE` (R9, R60) -/

namespace Sys2Proof.Machine

/-! ## One step by the next input -/

theorem step_of_schedule_nil {s : State} (hs : s.schedule = []) : step s = .next (sequencerTurn s) := by
  simp only [step, hs]

theorem step_of_schedule_transaction {s : State} {tr : Transaction} {rest : List Event}
    (hs : s.schedule = .transaction tr :: rest) :
    step s = exec (decode s.cfg.nMax s.busy tr) { s with schedule := rest } := by
  simp only [step, hs]

theorem step_of_schedule_sequencer {s : State} {rest : List Event} (hs : s.schedule = .sequencer :: rest) :
    step s = .next (sequencerTurn { s with schedule := rest }) := by
  simp only [step, hs]

theorem step_of_schedule_reset {s : State} {rest : List Event} (hs : s.schedule = .reset :: rest) :
    step s = .next (resetBlock { s with schedule := rest }) := by
  simp only [step, hs]

/-! ## The parameters stay -/

theorem HostEffect.cfg_eq {s t : State} (h : HostEffect s t) : t.cfg = s.cfg := by
  cases h <;> rfl

theorem TurnEffect.cfg_eq {s t : State} (h : TurnEffect s t) : t.cfg = s.cfg := by
  cases h <;> rfl

theorem step_cfg {s t : State} (h : step s = .next t) : t.cfg = s.cfg := by
  obtain ⟨-, he⟩ | ⟨rest, -, he⟩ | ⟨rest, -, rfl⟩ | ⟨tr, rest, r, s', -, -, rfl, he⟩ := step_cases h
  · exact he.cfg_eq
  · exact he.cfg_eq
  · rfl
  · exact he.cfg_eq

/-! ## Every operation commutes with a move of the window

An unconditional update commutes by `rfl`; where an operation branches, its condition reads no base address and the move
passes into the branches. -/

section Rebase

variable (base : Nat) (s : State)

theorem busyCommand_rebase (w : Word) : busyCommand w (rebase base s) = rebase base (busyCommand w s) := by
  simp only [busyCommand, apply_ite (rebase base)]
  rfl

theorem commandNop_rebase : commandNop (rebase base s) = rebase base (commandNop s) := rfl

theorem commandClrstat_rebase : commandClrstat (rebase base s) = rebase base (commandClrstat s) := rfl

theorem commandAssign_rebase : commandAssign (rebase base s) = rebase base (commandAssign s) := by
  simp only [commandAssign, apply_ite (rebase base)]
  rfl

theorem commandIllegal_rebase : commandIllegal (rebase base s) = rebase base (commandIllegal s) := by
  simp only [commandIllegal, apply_ite (rebase base)]
  rfl

theorem runCommand_rebase (w : Word) {body : State → State}
    (hbody : body (rebase base s) = rebase base (body s)) :
    runCommand w body (rebase base s) = rebase base (runCommand w body s) := by
  simp only [runCommand, hbody, busyCommand_rebase, apply_ite (rebase base)]
  rfl

theorem command_rebase (w : Word) : command w (rebase base s) = rebase base (command w s) := by
  simp only [command, busyCommand_rebase, commandAssign_rebase, commandIllegal_rebase, apply_ite (rebase base)]
  rfl

theorem writeInput_rebase (stored : State) :
    writeInput (rebase base stored) (rebase base s) = rebase base (writeInput stored s) := by
  simp only [writeInput, apply_ite (rebase base)]
  rfl

theorem readSlot_rebase (i : SymIndex) (rdata : Word) :
    readSlot i rdata (rebase base s) = rebase base (readSlot i rdata s) := by
  simp only [readSlot, apply_ite (rebase base)]
  rfl

theorem refuseRequest_rebase (r : Request) : refuseRequest r (rebase base s) = rebase base (refuseRequest r s) := by
  cases r <;> rfl

theorem answerWrite_rebase : answerWrite (rebase base s) = rebase base (answerWrite s) := rfl

theorem next_answerWrite_rebase {s t : State} (h : t = rebase base s) :
    (.next (answerWrite t) : Host.Outcome State Fault Refusal) = .next (rebase base (answerWrite s)) := by
  rw [h, answerWrite_rebase]

/-- `WR_LEN` is the one row that both branches on its operand and writes an input. -/
theorem execWrLen_rebase {t : State} (i : SymIndex) (w : Word) (h : execWrLen i w s = .next t) :
    execWrLen i w (rebase base s) = .next (rebase base t) := by
  cases h
  have hw := writeInput_rebase base s { s with lenMem := s.lenMem.write i.toNat (saturateLen w) }
  simp only [apply_ite (rebase base), ← answerWrite_rebase, ← hw]
  rfl

theorem exec_rebase {i : Instr} {s t : State} (h : exec i s = .next t) :
    exec i (rebase base s) = .next (rebase base t) := by
  cases i
  case nop => cases h; exact next_answerWrite_rebase base (runCommand_rebase base s _ (commandNop_rebase base s))
  case assign => cases h; exact next_answerWrite_rebase base (runCommand_rebase base s _ (commandAssign_rebase base s))
  case clrstat => cases h; exact next_answerWrite_rebase base (runCommand_rebase base s _ (commandClrstat_rebase base s))
  case illegalCmd w =>
    cases h
    exact next_answerWrite_rebase base (runCommand_rebase base s w (commandIllegal_rebase base s))
  case cmdWhileBusy w => cases h; exact next_answerWrite_rebase base (command_rebase base s w)
  case wrCmd w => cases h; exact next_answerWrite_rebase base (command_rebase base s w)
  case wrNsym w => cases h; exact next_answerWrite_rebase base (writeInput_rebase base s { s with nsym := w })
  case wrMaxbits w => cases h; exact next_answerWrite_rebase base (writeInput_rebase base s { s with maxbits := w })
  case wrLen i w => exact execWrLen_rebase base s i w h
  case rdLen i => cases h; exact congrArg Host.Outcome.next (readSlot_rebase base s i _)
  case rdCode i => cases h; exact congrArg Host.Outcome.next (readSlot_rebase base s i _)
  case misaligned r => cases h; exact congrArg Host.Outcome.next (refuseRequest_rebase base s r)
  case unmapped r => cases h; exact congrArg Host.Outcome.next (refuseRequest_rebase base s r)
  all_goals cases h; rfl

theorem complete_rebase : complete (rebase base s) = rebase base (complete s) := by
  unfold complete
  have hr : canonAssign (rebase base s).cfg.nMax (rebase base s).lenMem (rebase base s).nsym (rebase base s).maxbits
      = canonAssign s.cfg.nMax s.lenMem s.nsym s.maxbits := rfl
  rw [hr]
  cases canonAssign s.cfg.nMax s.lenMem s.nsym s.maxbits <;> rfl

theorem sequencerTurn_rebase : sequencerTurn (rebase base s) = rebase base (sequencerTurn s) := by
  simp only [sequencerTurn, complete_rebase, apply_ite (rebase base)]
  rfl

theorem step_rebase {s t : State} (h : step s = .next t) : step (rebase base s) = .next (rebase base t) := by
  match hs : s.schedule with
  | [] =>
    rw [step_of_schedule_nil hs] at h
    cases h
    rw [step_of_schedule_nil (s := rebase base s) hs, sequencerTurn_rebase]
  | .transaction tr :: rest =>
    rw [step_of_schedule_transaction hs] at h
    rw [step_of_schedule_transaction (s := rebase base s) hs]
    exact exec_rebase base h
  | .sequencer :: rest =>
    rw [step_of_schedule_sequencer hs] at h
    cases h
    rw [step_of_schedule_sequencer (s := rebase base s) hs]
    exact congrArg Host.Outcome.next (sequencerTurn_rebase base { s with schedule := rest })
  | .reset :: rest =>
    rw [step_of_schedule_reset hs] at h
    cases h
    exact step_of_schedule_reset (s := rebase base s) hs

end Rebase

/-- Settles O55: no effect of a step writes the parameters, and every operation a step is made of commutes with a move
of the window. -/
theorem parametersAreConstant : Obligations.ParametersAreConstant :=
  fun _ _ base h => ⟨step_cfg h, step_rebase base h⟩

end Sys2Proof.Machine

/-! # The results of `CanonAssign` in closed form (R161 to R171) -/

namespace Sys2Proof.Machine

/-! ## What a successful and a failed operation are -/

theorem firstTooLong_eq_none {mb : Nat} {lens : List Nat} :
    ∀ i, firstTooLong mb i lens = none → ∀ len ∈ lens, len ≤ mb := by
  induction lens with
  | nil => simp
  | cons len rest ih =>
    intro i h
    simp only [firstTooLong] at h
    split at h
    · cases h
    · rename_i hlen
      exact List.forall_mem_cons.2 ⟨by omega, ih _ h⟩

section Canon

variable {nMax : Nat} {mem : Memory 8} {nsym maxbits : Word}

/-- A success passed the three checks, and its results are those of steps 1 to 3. -/
theorem canonAssign_ok {codes : List Nat} {bl nc : LenTable} (h : canonAssign nMax mem nsym maxbits = .ok codes bl nc) :
    nsym.toNat ≤ nMax ∧ maxbits.toNat ≤ 15 ∧ (∀ len ∈ lengthsOf mem nsym.toNat, len ≤ maxbits.toNat)
      ∧ codes = (assignCodes (lengthsOf mem nsym.toNat) (startCodes bl maxbits.toNat)).1
      ∧ bl = lengthCounts (lengthsOf mem nsym.toNat)
      ∧ nc = (assignCodes (lengthsOf mem nsym.toNat) (startCodes bl maxbits.toNat)).2 := by
  unfold canonAssign at h
  split at h
  · cases h
  · rename_i hn
    split at h
    · cases h
    · rename_i hmb
      split at h
      · cases h
      · rename_i hnone
        cases h
        exact ⟨by omega, Nat.le_of_not_lt hmb, firstTooLong_eq_none 0 hnone, rfl, rfl, rfl⟩

/-- Only `LEN_RANGE` has details. -/
theorem canonAssign_err_details {cause : ErrCause} {index len : Nat}
    (h : canonAssign nMax mem nsym maxbits = .err cause index len) (hc : cause ≠ .lenRange) : index = 0 ∧ len = 0 := by
  unfold canonAssign at h
  split at h
  · cases h
    exact ⟨rfl, rfl⟩
  · split at h
    · cases h
      exact ⟨rfl, rfl⟩
    · split at h
      · cases h
        exact absurd rfl hc
      · cases h

end Canon

/-! ## Step 1: the counts (R163) -/

theorem countLengths_entry (lens : List Nat) {L : Nat} (hL : L < Config.nl) :
    ∀ t : LenTable, (countLengths lens t).entry L = t.entry L + usedCount lens L := by
  induction lens with
  | nil => intro t; rfl
  | cons len rest ih =>
    intro t
    simp only [countLengths, ih, LenTable.entry_put, usedCount, List.count_cons, beq_iff_eq, eq_comm (a := len)]
    by_cases h : L = len
    · subst h
      simp only [hL, and_self, if_true]
      omega
    · simp [h]

theorem lengthCounts_entry (lens : List Nat) {L : Nat} (h1 : 1 ≤ L) (hL : L < Config.nl) :
    (lengthCounts lens).entry L = usedCount lens L := by
  have h0 : ¬ (L = 0 ∧ 0 < Config.nl) := by omega
  rw [lengthCounts, LenTable.entry_put, if_neg h0, countLengths_entry lens hL, LenTable.entry_zero, Nat.zero_add]

@[simp] theorem lengthCounts_entry_zero (lens : List Nat) : (lengthCounts lens).entry 0 = 0 := by
  simp [lengthCounts, LenTable.entry_put]

theorem usedCount_eq_zero {lens : List Nat} {mb L : Nat} (h : ∀ len ∈ lens, len ≤ mb) (hL : mb < L) :
    usedCount lens L = 0 :=
  List.count_eq_zero.2 fun hm => absurd (h L hm) (by omega)

/-! ## Step 2: the starting codes (R164), by the recurrences of R170's sums -/

theorem closedStartCode_succ (lens : List Nat) (L : Nat) :
    closedStartCode lens (L + 1) = 2 * closedNextCode lens L := by
  unfold closedStartCode closedNextCode
  rw [← List.sum_map_mul_left]
  refine congrArg List.sum (List.map_congr_left fun j hj => ?_)
  have hj : j < L := by simpa using hj
  have : L + 1 - (j + 1) = L - (j + 1) + 1 := by omega
  rw [this, Nat.pow_succ]
  ring

theorem closedNextCode_succ (lens : List Nat) (L : Nat) :
    closedNextCode lens (L + 1) = closedStartCode lens (L + 1) + usedCount lens (L + 1) := by
  simp [closedNextCode, closedStartCode, List.range_succ]

theorem closedNextCode_eq (lens : List Nat) {L : Nat} (h : 1 ≤ L) :
    closedNextCode lens L = closedStartCode lens L + usedCount lens L := by
  obtain ⟨m, rfl⟩ := Nat.exists_eq_add_of_le' h
  exact closedNextCode_succ lens m

/-- The loop of R164 from length `m + 1` on, entered with the code whose sum with the count at `m` is the closed form at
`m`. -/
theorem startCodesFrom_entry {lens : List Nat} {bl : LenTable}
    (hbl : ∀ L, 1 ≤ L → L < Config.nl → bl.entry L = usedCount lens L) (k : Nat) :
    ∀ (m code : Nat) (nc : LenTable), m + k < Config.nl → code + bl.entry m = closedNextCode lens m → ∀ L,
      (startCodesFrom bl k (m + 1) code nc).entry L =
        if m < L ∧ L ≤ m + k then closedStartCode lens L else nc.entry L := by
  induction k with
  | zero =>
    intro m code nc _ _ L
    have : ¬ (m < L ∧ L ≤ m + 0) := by omega
    rw [startCodesFrom, if_neg this]
  | succ k ih =>
    intro m code nc hk hcode L
    have hstart : (code + bl.entry (m + 1 - 1)) <<< 1 = closedStartCode lens (m + 1) := by
      rw [Nat.add_sub_cancel, hcode, closedStartCode_succ, Nat.shiftLeft_eq]
      omega
    have hnext : closedStartCode lens (m + 1) + bl.entry (m + 1) = closedNextCode lens (m + 1) := by
      rw [closedNextCode_succ, hbl (m + 1) (by omega) (by omega)]
    rw [startCodesFrom, hstart, ih (m + 1) _ _ (by omega) hnext L, LenTable.entry_put]
    by_cases hL : L = m + 1
    · subst hL
      have h1 : ¬ (m + 1 < m + 1 ∧ m + 1 ≤ m + 1 + k) := by omega
      have h2 : m + 1 = m + 1 ∧ m + 1 < Config.nl := ⟨rfl, by omega⟩
      have h3 : m < m + 1 ∧ m + 1 ≤ m + (k + 1) := by omega
      rw [if_neg h1, if_pos h2, if_pos h3]
    · have h1 : (m + 1 < L ∧ L ≤ m + 1 + k) ↔ (m < L ∧ L ≤ m + (k + 1)) := by omega
      have h2 : ¬ (L = m + 1 ∧ m + 1 < Config.nl) := fun h => hL h.1
      simp only [h1, if_neg h2]

theorem startCodes_entry (lens : List Nat) {mb : Nat} (hmb : mb ≤ 15) (L : Nat) :
    (startCodes (lengthCounts lens) mb).entry L = if 1 ≤ L ∧ L ≤ mb then closedStartCode lens L else 0 := by
  have h0 : 0 + (lengthCounts lens).entry 0 = closedNextCode lens 0 := by simp [closedNextCode]
  have hk : 0 + mb < Config.nl := show 0 + mb < 16 by omega
  have h := startCodesFrom_entry (fun L => lengthCounts_entry lens) mb 0 0 LenTable.zero hk h0 L
  simpa [startCodes, Nat.lt_iff_add_one_le] using h

/-! ## Step 3: the codes and the returned `next_code` (R165, R166) -/

theorem assignCodes_next_entry (lens : List Nat) {L : Nat} (h1 : 1 ≤ L) (hL : L < Config.nl) :
    ∀ nc : LenTable, (assignCodes lens nc).2.entry L = nc.entry L + usedCount lens L := by
  induction lens with
  | nil => intro nc; rfl
  | cons len rest ih =>
    intro nc
    by_cases hz : len = 0
    · have : ¬ len = L := by omega
      simp [assignCodes, hz, ih, usedCount, hz ▸ this]
    · simp only [assignCodes, ne_eq, hz, not_false_eq_true, if_true, ih, LenTable.entry_put, usedCount, List.count_cons,
        beq_iff_eq, eq_comm (a := len)]
      by_cases h : L = len
      · subst h
        simp only [hL, and_self, if_true]
        omega
      · simp [h]

@[simp] theorem assignCodes_next_entry_zero (lens : List Nat) :
    ∀ nc : LenTable, (assignCodes lens nc).2.entry 0 = nc.entry 0 := by
  induction lens with
  | nil => intro nc; rfl
  | cons len rest ih =>
    intro nc
    by_cases hz : len = 0
    · simp [assignCodes, hz, ih]
    · simp [assignCodes, hz, ih, LenTable.entry_put, Ne.symm hz]

/-- The code of symbol `i`: the starting code of its length plus the number of earlier symbols of that length. -/
theorem assignCodes_code {lens : List Nat} :
    (∀ len ∈ lens, len < Config.nl) → ∀ (nc : LenTable) (i : Nat),
      (assignCodes lens nc).1.getD i 0 =
        if lens.getD i 0 = 0 then 0 else nc.entry (lens.getD i 0) + usedCount (lens.take i) (lens.getD i 0) := by
  induction lens with
  | nil => intro _ nc i; rfl
  | cons len rest ih =>
    intro hlens nc i
    obtain ⟨hlen, hrest⟩ := List.forall_mem_cons.1 hlens
    cases i with
    | zero => by_cases hz : len = 0 <;> simp [assignCodes, hz, usedCount]
    | succ i =>
      by_cases hz : len = 0
      · simp only [assignCodes, hz, ne_eq, not_true_eq_false, if_false, List.getD_cons_succ, ih hrest,
          List.take_succ_cons, usedCount]
        split
        · rfl
        · rename_i hne
          rw [List.count_cons_of_ne (Ne.symm hne)]
      · simp only [assignCodes, hz, ne_eq, not_false_eq_true, if_true, List.getD_cons_succ, ih hrest,
          List.take_succ_cons, usedCount, List.count_cons, LenTable.entry_put, beq_iff_eq, hlen, and_true,
          eq_comm (a := len)]
        split
        · rfl
        · split
          · rename_i heq
            rw [heq]
            omega
          · rfl

/-! ## The results of a success in closed form, and that the registers hold them (R170, R171) -/

section Canon

variable {nMax : Nat} {mem : Memory 8} {nsym maxbits : Word} {codes : List Nat} {bl nc : LenTable}

theorem canonAssign_codes_length (h : canonAssign nMax mem nsym maxbits = .ok codes bl nc) :
    codes.length = nsym.toNat := by
  obtain ⟨-, -, -, rfl, -, -⟩ := canonAssign_ok h
  rw [assignCodes_length, lengthsOf_length]

theorem canonAssign_tables (h : canonAssign nMax mem nsym maxbits = .ok codes bl nc) {L : Nat} (h1 : 1 ≤ L)
    (hL : L ≤ maxbits.toNat) :
    bl.entry L = usedCount (lengthsOf mem nsym.toNat) L ∧ nc.entry L = closedNextCode (lengthsOf mem nsym.toNat) L := by
  obtain ⟨-, hmb, -, -, rfl, rfl⟩ := canonAssign_ok h
  have hnl : L < 16 := by omega
  refine ⟨lengthCounts_entry _ h1 hnl, ?_⟩
  rw [assignCodes_next_entry _ h1 hnl, startCodes_entry _ hmb, if_pos ⟨h1, hL⟩, closedNextCode_eq _ h1]

theorem canonAssign_tables_zero (h : canonAssign nMax mem nsym maxbits = .ok codes bl nc) {L : Nat}
    (hL : ¬ (1 ≤ L ∧ L ≤ maxbits.toNat)) : bl.entry L = 0 ∧ nc.entry L = 0 := by
  obtain ⟨-, hmb, hlens, -, rfl, rfl⟩ := canonAssign_ok h
  by_cases hnl : Config.nl ≤ L
  · exact ⟨LenTable.entry_of_le _ hnl, LenTable.entry_of_le _ hnl⟩
  · obtain rfl | h1 : L = 0 ∨ 1 ≤ L := by omega
    · simp [startCodes_entry _ hmb]
    · have hu := usedCount_eq_zero hlens (L := L) (by omega)
      rw [assignCodes_next_entry _ h1 (by omega), startCodes_entry _ hmb, if_neg hL,
        lengthCounts_entry _ h1 (by omega), hu]
      exact ⟨rfl, rfl⟩

/-- No code exceeds the returned `next_code` of its symbol's length. -/
theorem canonAssign_code_le (h : canonAssign nMax mem nsym maxbits = .ok codes bl nc) (i : Nat) :
    codes.getD i 0 ≤ nc.entry ((lengthsOf mem nsym.toNat).getD i 0) := by
  obtain ⟨-, hmb, hlens, rfl, -, rfl⟩ := canonAssign_ok h
  have hnl : ∀ len ∈ lengthsOf mem nsym.toNat, len < Config.nl := fun len hm =>
    Nat.lt_of_le_of_lt (hlens len hm) (show maxbits.toNat < 16 by omega)
  rw [assignCodes_code hnl]
  split
  · exact Nat.zero_le _
  · rename_i hne
    have hi : i < (lengthsOf mem nsym.toNat).length := by
      by_contra hge
      exact hne (List.getD_eq_default _ _ (by omega))
    have hm : (lengthsOf mem nsym.toNat).getD i 0 ∈ lengthsOf mem nsym.toNat := by
      rw [List.getD_eq_getElem _ _ hi]
      exact List.getElem_mem hi
    rw [assignCodes_next_entry _ (by omega) (hnl _ hm)]
    exact Nat.add_le_add_left ((List.take_sublist i _).count_le _) _

theorem usedCount_le (lens : List Nat) (L : Nat) : usedCount lens L ≤ lens.length := List.count_le_length

theorem closedNextCode_add_le (lens : List Nat) (L : Nat) :
    closedNextCode lens L + lens.length ≤ lens.length * 2 ^ L := by
  induction L with
  | zero => simp [closedNextCode]
  | succ L ih =>
    have hc := usedCount_le lens (L + 1)
    rw [closedNextCode_succ, closedStartCode_succ, Nat.pow_succ, ← Nat.mul_assoc]
    omega

/-- Every value of a success fits in 32 bits. -/
theorem canonAssign_tables_lt (hn : nMax ≤ 65535) (h : canonAssign nMax mem nsym maxbits = .ok codes bl nc) (L : Nat) :
    bl.entry L < 2 ^ 32 ∧ nc.entry L < 2 ^ 32 := by
  by_cases hL : 1 ≤ L ∧ L ≤ maxbits.toNat
  · obtain ⟨hns, hmb, -⟩ := canonAssign_ok h
    obtain ⟨hbl, hnc⟩ := canonAssign_tables h hL.1 hL.2
    have hc := usedCount_le (lengthsOf mem nsym.toNat) L
    have hk := closedNextCode_add_le (lengthsOf mem nsym.toNat) L
    have hp : nsym.toNat * 2 ^ L ≤ 65535 * 2 ^ 15 :=
      Nat.mul_le_mul (by omega) (Nat.pow_le_pow_right (by omega) (by omega))
    rw [lengthsOf_length] at hc hk
    omega
  · obtain ⟨hbl, hnc⟩ := canonAssign_tables_zero h hL
    omega

theorem canonAssign_code_lt (hn : nMax ≤ 65535) (h : canonAssign nMax mem nsym maxbits = .ok codes bl nc) (i : Nat) :
    codes.getD i 0 < 2 ^ 32 :=
  Nat.lt_of_le_of_lt (canonAssign_code_le h i) (canonAssign_tables_lt hn h _).2

end Canon

/-- Settles O42: the registers hold the entries of the function's tables, which have these closed forms. -/
theorem resultRegistersHoldCountsAndNextCodes : Obligations.ResultRegistersHoldCountsAndNextCodes := by
  intro s L hinv hdone
  obtain ⟨codes, bl, nc, hr, -, hregs⟩ := hinv.results hdone
  obtain ⟨hbl, hnc⟩ := hregs L
  refine ⟨fun hL => ?_, fun hL => ?_⟩
  · rw [hbl, hnc]
    exact canonAssign_tables hr hL.1 hL.2
  · obtain ⟨hbl0, hnc0⟩ := canonAssign_tables_zero hr hL
    exact ⟨BitVec.eq_of_toNat_eq (hbl.trans hbl0), BitVec.eq_of_toNat_eq (hnc.trans hnc0)⟩

end Sys2Proof.Machine

/-! # The invariant of the block (R36, R43, R44) -/

namespace Sys2Proof.Machine

/-! ## The invariant, part by part -/

theorem visibleState_ne_mixed_iff (s : State) :
    visibleState s ≠ .mixed ↔ (s.busy && s.done) = false ∧ (s.busy && s.err) = false ∧ (s.done && s.err) = false := by
  unfold visibleState
  cases s.busy <;> cases s.done <;> cases s.err <;> decide

theorem State.Inv.exclusive {s : State} (h : s.Inv) :
    (s.busy && s.done) = false ∧ (s.busy && s.err) = false ∧ (s.done && s.err) = false :=
  (visibleState_ne_mixed_iff s).1 h.oneVisible

theorem State.Inv.only_done {s : State} (h : s.Inv) (hd : s.done = true) : s.busy = false ∧ s.err = false := by
  obtain ⟨hbd, -, hde⟩ := h.exclusive
  exact ⟨by simpa [hd] using hbd, by simpa [hd] using hde⟩

theorem State.Inv.only_busy {s : State} (h : s.Inv) (hb : s.busy = true) : s.done = false ∧ s.err = false := by
  obtain ⟨hbd, hbe, -⟩ := h.exclusive
  exact ⟨by simpa [hb] using hbd, by simpa [hb] using hbe⟩

theorem State.Inv.nMax_le {s : State} (h : s.Inv) : s.cfg.nMax ≤ 65535 := by
  have := h.cfgWf
  simp only [Config.wf, Bool.and_eq_true, decide_eq_true_eq] at this
  exact this.2

/-- The invariant reads none of the fields `IRQ_EN`, `WIGN`, the inputs still to come, the port's answer. -/
theorem State.Inv.of_unread {s : State} (h : s.Inv) (en w : Bool) (sch : List Event) (r : Option Response) :
    State.Inv { s with irqEn := en, wign := w, schedule := sch, response := r } :=
  ⟨h.cfgWf, h.lenWf, h.lenWithin, h.codeWf, h.codeWithin, h.oneVisible, h.quietErr, h.knownErr, h.results⟩

theorem State.Inv.of_schedule {s : State} (h : s.Inv) (sch : List Event) : State.Inv { s with schedule := sch } :=
  h.of_unread s.irqEn s.wign sch s.response

/-! ## Reset -/

theorem resetOf_inv {cfg : Config} (hcfg : cfg.wf = true) (sch : List Event) :
    State.Inv { State.resetOf cfg with schedule := sch } where
  cfgWf := hcfg
  lenWf := rfl
  lenWithin := rfl
  codeWf := rfl
  codeWithin := rfl
  oneVisible := by simp [visibleState_ne_mixed_iff, State.resetOf]
  quietErr := fun _ => ⟨rfl, rfl, rfl⟩
  knownErr := nofun
  results := nofun

/-- Settles O58: after reset the memories are empty and every flag is 0. -/
theorem resetStateHasTheInvariant : Obligations.ResetStateHasTheInvariant :=
  ⟨resetOf_inv (by decide) [], fun _ sch hcfg => resetOf_inv hcfg sch⟩

/-! ## Transactions -/

/-- An accepted input write clears `DONE`, so no result has to hold for the new inputs. -/
theorem inputWritten_inv {s : State} (h : s.Inv) (hb : s.busy = false) (nsym maxbits : Word) {m : Memory 8}
    (hwf : m.wf = true) (hm : m.within s.cfg.nMax = true) :
    (inputWritten { s with nsym := nsym, maxbits := maxbits, lenMem := m }).Inv where
  cfgWf := h.cfgWf
  lenWf := hwf
  lenWithin := hm
  codeWf := h.codeWf
  codeWithin := h.codeWithin
  oneVisible := by simp [visibleState_ne_mixed_iff, hb]
  quietErr := h.quietErr
  knownErr := h.knownErr
  results := nofun

theorem starts_inv {s : State} (h : s.Inv) (he : s.err = false) :
    State.Inv { s with done := false, busy := true } where
  cfgWf := h.cfgWf
  lenWf := h.lenWf
  lenWithin := h.lenWithin
  codeWf := h.codeWf
  codeWithin := h.codeWithin
  oneVisible := by simp [visibleState_ne_mixed_iff, he]
  quietErr := h.quietErr
  knownErr := h.knownErr
  results := nofun

theorem clearStatus_inv {s : State} (h : s.Inv) : (clearStatus s).Inv where
  cfgWf := h.cfgWf
  lenWf := h.lenWf
  lenWithin := h.lenWithin
  codeWf := h.codeWf
  codeWithin := h.codeWithin
  oneVisible := by simp [visibleState_ne_mixed_iff]
  quietErr := fun _ => ⟨rfl, rfl, rfl⟩
  knownErr := nofun
  results := nofun

theorem raiseError_inv {s : State} (h : s.Inv) (hb : s.busy = false) {cause : ErrCause} {index len : Nat}
    (hd : cause ≠ .lenRange → index = 0 ∧ len = 0) : (raiseError cause index len s).Inv where
  cfgWf := h.cfgWf
  lenWf := h.lenWf
  lenWithin := h.lenWithin
  codeWf := h.codeWf
  codeWithin := h.codeWithin
  oneVisible := by simp [visibleState_ne_mixed_iff, hb]
  quietErr := nofun
  knownErr := fun _ => ⟨cause, rfl, fun hc => by simp [hd hc]⟩
  results := nofun

theorem HostEffect.inv {s t : State} (he : HostEffect s t) (h : s.Inv) : t.Inv := by
  cases he with
  | unchanged => exact h
  | ignored _ => exact h.of_unread s.irqEn true s.schedule s.response
  | writesNsym w hb => exact inputWritten_inv h hb w s.maxbits h.lenWf h.lenWithin
  | writesMaxbits w hb => exact inputWritten_inv h hb s.nsym w h.lenWf h.lenWithin
  | writesLen i w hb hi =>
    exact inputWritten_inv h hb s.nsym s.maxbits (Memory.write_wf _ _ _ h.lenWf)
      (Memory.write_within _ _ _ _ h.lenWithin hi)
  | writesIrqEn en => exact h.of_unread en s.wign s.schedule s.response
  | starts _ he => exact starts_inv h he
  | clears hb => exact clearStatus_inv h
  | raises hb _ => exact raiseError_inv h hb (fun _ => ⟨rfl, rfl⟩)

/-! ## The completion step -/

theorem commitSuccess_results {s : State} (h : s.Inv) {codes : List Nat} {bl nc : LenTable}
    (hr : canonAssign s.cfg.nMax s.lenMem s.nsym s.maxbits = .ok codes bl nc) :
    ResultsHold (commitSuccess codes bl nc s) := by
  have hlt := canonAssign_tables_lt h.nMax_le hr
  refine ⟨codes, bl, nc, hr, fun i hi => ?_, fun L => ⟨?_, ?_⟩⟩
  · have hi : 0 ≤ i ∧ i < 0 + codes.length := by
      rw [canonAssign_codes_length hr]
      exact ⟨Nat.zero_le i, by simpa using hi⟩
    rw [commitSuccess_codeMem, storeCodes_read _ _ _ _ h.codeWf, if_pos hi, Nat.sub_zero, BitVec.toNat_ofNat]
    exact Nat.mod_eq_of_lt (canonAssign_code_lt h.nMax_le hr i)
  · rw [commitSuccess_blCount, tableRegisters_getD, BitVec.toNat_ofNat, Nat.mod_eq_of_lt (hlt L.toNat).1]
  · rw [commitSuccess_nextCode, tableRegisters_getD, BitVec.toNat_ofNat, Nat.mod_eq_of_lt (hlt L.toNat).2]

theorem commitSuccess_inv {s : State} (h : s.Inv) (hb : s.busy = true) {codes : List Nat} {bl nc : LenTable}
    (hr : canonAssign s.cfg.nMax s.lenMem s.nsym s.maxbits = .ok codes bl nc) : (commitSuccess codes bl nc s).Inv where
  cfgWf := h.cfgWf
  lenWf := h.lenWf
  lenWithin := h.lenWithin
  codeWf := storeCodes_wf codes s.codeMem 0 h.codeWf
  codeWithin := storeCodes_within _ codes s.codeMem 0 h.codeWithin (by
    rw [canonAssign_codes_length hr, Nat.zero_add]
    exact (canonAssign_ok hr).1)
  oneVisible := by simp [visibleState_ne_mixed_iff, (h.only_busy hb).2]
  quietErr := h.quietErr
  knownErr := h.knownErr
  results := fun _ => commitSuccess_results h hr

theorem State.Inv.of_not_busy {s : State} (h : s.Inv) : State.Inv { s with busy := false } where
  cfgWf := h.cfgWf
  lenWf := h.lenWf
  lenWithin := h.lenWithin
  codeWf := h.codeWf
  codeWithin := h.codeWithin
  oneVisible := by
    obtain ⟨-, -, hde⟩ := h.exclusive
    simpa [visibleState_ne_mixed_iff] using hde
  quietErr := h.quietErr
  knownErr := h.knownErr
  results := h.results

theorem TurnEffect.inv {s t : State} (he : TurnEffect s t) (h : s.Inv) : t.Inv := by
  cases he with
  | notEnabled _ => exact h
  | succeeds hb codes bl nc hr => exact commitSuccess_inv h hb hr
  | fails hb cause index len hr => exact raiseError_inv h.of_not_busy rfl (canonAssign_err_details hr)

/-! ## Every step -/

/-- Settles O59: no effect of a turn or of a transaction breaks the invariant, and reset establishes it. -/
theorem stepKeepsTheInvariant : Obligations.StepKeepsTheInvariant := by
  intro s t hinv h
  obtain ⟨-, he⟩ | ⟨rest, -, he⟩ | ⟨rest, -, rfl⟩ | ⟨tr, rest, r, s', -, -, rfl, he⟩ := step_cases h
  · exact he.inv hinv
  · exact he.inv (hinv.of_schedule rest)
  · exact resetOf_inv hinv.cfgWf rest
  · have hs' : s'.Inv := he.inv (hinv.of_schedule rest)
    exact hs'.of_unread s'.irqEn s'.wign s'.schedule (some r)

theorem Reachable.inv {s : State} (h : Reachable s) : s.Inv := by
  induction h with
  | reset cfg sch hcfg => exact resetOf_inv hcfg sch
  | step s t _ hst ih => exact stepKeepsTheInvariant s t ih hst

/-- Settles O60: the statement lists parts of the invariant, which holds in every reachable state. -/
theorem reachableStatesKeepTheSpecsInvariants : Obligations.ReachableStatesKeepTheSpecsInvariants := by
  intro s hs
  obtain ⟨hbd, hbe, hde⟩ := hs.inv.exclusive
  exact ⟨hbd, hbe, hde, hs.inv.quietErr, hs.inv.results⟩

end Sys2Proof.Machine

/-! # What sets and clears each status bit (R31 to R34, R39 to R41, R46) -/

namespace Sys2Proof.Machine

/-! ## Every row and every step answers a next state -/

theorem exec_total (i : Instr) (s : State) : ∃ t, exec i s = .next t := by
  cases i <;> exact ⟨_, rfl⟩

/-- Settles O9: each input of the schedule has a next state, a transaction by `exec_total`. -/
theorem everyStepAnswersNext : Obligations.EveryStepAnswersNext := by
  intro s
  match hs : s.schedule with
  | [] => exact ⟨_, step_of_schedule_nil hs⟩
  | .transaction tr :: rest =>
    rw [step_of_schedule_transaction hs]
    exact exec_total _ _
  | .sequencer :: rest => exact ⟨_, step_of_schedule_sequencer hs⟩
  | .reset :: rest => exact ⟨_, step_of_schedule_reset hs⟩

/-! ## The row a transaction runs -/

theorem decodeCmd_applies (busy : Bool) (w : Word) : (decodeCmd busy w).applies busy = true := by
  unfold decodeCmd
  split_ifs with hb <;> simp [Instr.applies, hb]

theorem decodeCmd_ne_bus {busy : Bool} {w : Word} {i : Instr} (hi : i.applies true = i.applies false) :
    decodeCmd busy w ≠ i := by
  unfold decodeCmd
  split_ifs <;> rintro rfl <;> simp [Instr.applies] at hi

theorem readRow_applies (busy : Bool) (t : Target) : (readRow t).applies busy = true := by
  cases t <;> rfl

theorem writeRow_applies (busy : Bool) (w : Word) (t : Target) : (writeRow w t).applies busy = true := by
  cases t <;> rfl

/-- A bus request is refused for its offset or its strobes, or runs a row of the place it names (R82). -/
theorem decodeBus_cases (nMax : Nat) (r : Request) :
    decodeBus nMax r = .misaligned r ∨ decodeBus nMax r = .unmapped r
      ∨ (∃ off w wstrb, decodeBus nMax r = .partialStrobe off w wstrb)
      ∨ ∃ t, decodeOffset nMax r.off = .mapped t
          ∧ (decodeBus nMax r = readRow t ∨ ∃ w, decodeBus nMax r = writeRow w t) := by
  cases hp : decodeOffset nMax r.off with
  | misaligned => cases r <;> simp_all [decodeBus, Request.off]
  | unmapped => cases r <;> simp_all [decodeBus, Request.off]
  | mapped t =>
    refine .inr (.inr ?_)
    cases r with
    | read off => exact .inr ⟨t, rfl, .inl (by simp_all [decodeBus, Request.off])⟩
    | write off w wstrb =>
      by_cases hst : wstrb = fullStrobe
      · exact .inr ⟨t, rfl, .inr ⟨w, by simp_all [decodeBus, Request.off]⟩⟩
      · exact .inl ⟨off, w, wstrb, by simp_all [decodeBus, Request.off]⟩

theorem decodeBus_applies (nMax : Nat) (busy : Bool) (r : Request) : (decodeBus nMax r).applies busy = true := by
  obtain h | h | ⟨off, w, wstrb, h⟩ | ⟨t, -, h | ⟨w, h⟩⟩ := decodeBus_cases nMax r
  · rw [h]; rfl
  · rw [h]; rfl
  · rw [h]; rfl
  · rw [h]; exact readRow_applies busy t
  · rw [h]; exact writeRow_applies busy w t

theorem decodeOffset_len_lt {nMax : Nat} {off : Offset} {slot : SymIndex}
    (h : decodeOffset nMax off = .mapped (.len slot)) : slot.toNat < nMax := by
  simp only [decodeOffset, ite_eq_iff, reduceCtorEq, and_false, false_or, or_false, Place.mapped.injEq,
    Target.len.injEq] at h
  obtain ⟨-, -, h, rfl⟩ := h
  omega

theorem decodeBus_wrLen_lt {nMax : Nat} {r : Request} {slot : SymIndex} {w : Word}
    (h : decodeBus nMax r = .wrLen slot w) : slot.toNat < nMax := by
  obtain h' | h' | ⟨_, _, _, h'⟩ | ⟨t, ht, h' | ⟨w', h'⟩⟩ := decodeBus_cases nMax r
  · cases h.symm.trans h'
  · cases h.symm.trans h'
  · cases h.symm.trans h'
  · cases t <;> cases h.symm.trans h'
  · cases t <;> cases h.symm.trans h'
    exact decodeOffset_len_lt ht

theorem rowOf_applies (s : State) (tr : Transaction) : (rowOf s tr).applies s.busy = true := by
  unfold rowOf
  split
  · exact decodeCmd_applies _ _
  · cases tr with
    | cmd w => exact decodeCmd_applies _ _
    | bus r => exact decodeBus_applies _ _ r

theorem rowOf_ne_wrCmd (s : State) (tr : Transaction) (w : Word) : rowOf s tr ≠ .wrCmd w := by
  unfold rowOf
  split
  · exact decodeCmd_ne_bus rfl
  · rename_i hne
    exact hne w

theorem rowOf_wrLen_lt {s : State} {tr : Transaction} {slot : SymIndex} {w : Word} (h : rowOf s tr = .wrLen slot w) :
    slot.toNat < s.cfg.nMax := by
  unfold rowOf at h
  split at h
  · exact absurd h (decodeCmd_ne_bus rfl)
  · cases tr with
    | cmd w => exact absurd h (decodeCmd_ne_bus rfl)
    | bus r => exact decodeBus_wrLen_lt h

/-- A write of `w` to `CMD` does what the command row of `w` does (R108, R140). -/
theorem exec_decodeCmd (w : Word) (s : State) : exec (decodeCmd s.busy w) s = exec (.wrCmd w) s := by
  change _ = Host.Outcome.next (answerWrite (command w s))
  unfold decodeCmd
  split_ifs with hb h0 h1 h2
  · rfl
  · simp [exec, execNop, runCommand, command, hb, h0]
  · simp [exec, execAssign, runCommand, command, hb, h1]
  · simp [exec, execClrstat, runCommand, command, hb, h2]
  · simp [exec, execIllegalCmd, runCommand, command, hb, h0, h1, h2]

theorem step_of_row {s : State} {tr : Transaction} {rest : List Event} (hs : s.schedule = .transaction tr :: rest) :
    step s = exec (rowOf s tr) { s with schedule := rest } := by
  rw [step_of_schedule_transaction hs]
  unfold rowOf
  split
  · rename_i w hw
    rw [hw]
    exact (exec_decodeCmd w { s with schedule := rest }).symm
  · rfl

/-! ## What each row does -/

/-- The rows that write no field of the block but `IRQ_EN`: every row but the input writes, the commands with an effect
and the write to `CMD`, which runs one. -/
def isInert (i : Instr) : Bool :=
  !writesInput i && match i with
    | .assign => false
    | .clrstat => false
    | .illegalCmd _ => false
    | .cmdWhileBusy w => w = 0#32
    | .wrCmd _ => false
    | _ => true

theorem ne_of_isInert {i : Instr} (h : isInert i = true) :
    i ≠ .assign ∧ i ≠ .clrstat ∧ (∀ w, i ≠ .illegalCmd w) ∧ (∀ w, i = .cmdWhileBusy w → w = 0#32)
      ∧ writesInput i = false := by
  obtain ⟨hin, -⟩ := Bool.and_eq_true_iff.1 h
  refine ⟨?_, ?_, ?_, ?_, by simpa using hin⟩
  · rintro rfl
    cases h
  · rintro rfl
    cases h
  · rintro w rfl
    cases h
  · rintro w rfl
    simpa [isInert, writesInput] using h

theorem ne_of_writesInput (hi : writesInput i = true) :
    i ≠ .assign ∧ i ≠ .clrstat ∧ ∀ w, i ≠ .illegalCmd w := by
  cases i <;> simp_all [writesInput]

/-- `HostEffect` by row: what the row `i` of a transaction does to the block, and its answer. -/
inductive RowEffect (s : State) : Instr → Response → State → Prop where
  | inert {i : Instr} (hi : isInert i = true) (en : Bool) (r : Response) : RowEffect s i r { s with irqEn := en }
  | starts (he : s.err = false) : RowEffect s .assign (.write .okay) { s with done := false, busy := true }
  | clears : RowEffect s .clrstat (.write .okay) (clearStatus s)
  | raises (w : Word) (he : s.err = false) :
      RowEffect s (.illegalCmd w) (.write .okay) (raiseError .illegalCmd 0 0 s)
  | refusesAssign (he : s.err = true) : RowEffect s .assign (.write .okay) (ignoredWrite s)
  | refusesIllegal (w : Word) (he : s.err = true) : RowEffect s (.illegalCmd w) (.write .okay) (ignoredWrite s)
  | ignoresCommand (w : Word) (hw : w ≠ 0#32) : RowEffect s (.cmdWhileBusy w) (.write .okay) (ignoredWrite s)
  | ignoresInput {i : Instr} (hi : writesInput i = true) (hb : s.busy = true) :
      RowEffect s i (.write .okay) (ignoredWrite s)
  | writesNsym (w : Word) (hb : s.busy = false) :
      RowEffect s (.wrNsym w) (.write .okay) (inputWritten { s with nsym := w })
  | writesMaxbits (w : Word) (hb : s.busy = false) :
      RowEffect s (.wrMaxbits w) (.write .okay) (inputWritten { s with maxbits := w })
  | writesLen (slot : SymIndex) (w : Word) (hb : s.busy = false) :
      RowEffect s (.wrLen slot w) (.write .okay)
        (inputWritten { s with lenMem := s.lenMem.write slot.toNat (saturateLen w) })

theorem writeInput_row {i : Instr} {stored s : State} (hi : writesInput i = true)
    (h : s.busy = false → RowEffect s i (.write .okay) (inputWritten stored)) :
    RowEffect s i (.write .okay) (writeInput stored s) := by
  unfold writeInput
  split
  · exact .ignoresInput hi ‹_›
  · exact h (by simpa using ‹¬ s.busy = true›)

theorem commandAssign_row (s : State) : RowEffect s .assign (.write .okay) (commandAssign s) := by
  unfold commandAssign
  split
  · exact .refusesAssign ‹_›
  · exact .starts (by simpa using ‹¬ s.err = true›)

theorem commandIllegal_row (w : Word) (s : State) : RowEffect s (.illegalCmd w) (.write .okay) (commandIllegal s) := by
  unfold commandIllegal
  split
  · exact .refusesIllegal w ‹_›
  · exact .raises w (by simpa using ‹¬ s.err = true›)

theorem busyCommand_row (w : Word) (s : State) : RowEffect s (.cmdWhileBusy w) (.write .okay) (busyCommand w s) := by
  unfold busyCommand
  split
  · exact .ignoresCommand w ‹_›
  · exact .inert (by simpa [isInert, writesInput] using ‹¬ w ≠ 0#32›) s.irqEn _

/-- What a transaction does to the block, by its row. -/
theorem exec_row {i : Instr} {s t : State} (h : exec i s = .next t) (ha : i.applies s.busy = true)
    (hlen : ∀ slot w, i = .wrLen slot w → slot.toNat < s.cfg.nMax) (hcmd : ∀ w, i ≠ .wrCmd w) :
    ∃ r s', t = respond r s' ∧ RowEffect s i r s' := by
  have hidle : i.applies true = false → s.busy = false := fun hi => by
    by_contra hb
    simp_all
  cases i
  case nop =>
    cases h
    exact ⟨.write .okay, s, by rw [runCommand, hidle rfl]; rfl, .inert rfl s.irqEn _⟩
  case assign => cases h; exact ⟨_, _, by rw [runCommand, hidle rfl]; rfl, commandAssign_row s⟩
  case clrstat => cases h; exact ⟨_, _, by rw [runCommand, hidle rfl]; rfl, .clears⟩
  case illegalCmd w => cases h; exact ⟨_, _, by rw [runCommand, hidle rfl]; rfl, commandIllegal_row w s⟩
  case cmdWhileBusy w =>
    cases h
    have hb : s.busy = true := ha
    exact ⟨_, _, by rw [command, if_pos hb]; rfl, busyCommand_row w s⟩
  case wrCmd w => exact absurd rfl (hcmd w)
  case wrNsym w => cases h; exact ⟨_, _, rfl, writeInput_row rfl (.writesNsym w)⟩
  case wrMaxbits w => cases h; exact ⟨_, _, rfl, writeInput_row rfl (.writesMaxbits w)⟩
  case wrLen slot w =>
    cases h
    exact ⟨_, _, by rw [if_pos (hlen slot w rfl)]; rfl, writeInput_row rfl (.writesLen slot w)⟩
  case wrIrqEn w =>
    cases h
    exact ⟨_, _, rfl, .inert rfl _ _⟩
  case rdLen slot =>
    cases h
    exact ⟨_, _, by rw [readSlot, answerRead, refuseRead, ← apply_ite (respond · s)], .inert rfl s.irqEn _⟩
  case rdCode slot =>
    cases h
    exact ⟨_, _, by rw [readSlot, answerRead, refuseRead, ← apply_ite (respond · s)], .inert rfl s.irqEn _⟩
  case misaligned r =>
    cases h
    cases r <;> exact ⟨_, _, rfl, .inert rfl s.irqEn _⟩
  case unmapped r =>
    cases h
    cases r <;> exact ⟨_, _, rfl, .inert rfl s.irqEn _⟩
  all_goals
    cases h
    exact ⟨_, _, rfl, .inert rfl s.irqEn _⟩

/-! ## What each row does to each status bit -/

namespace RowEffect

variable {s t : State} {i : Instr} {r : Response}

theorem busy_set (he : RowEffect s i r t) (hb : s.busy = false) : t.busy = true ↔ s.err = false ∧ i = .assign := by
  cases he with
  | inert hi en r =>
    obtain ⟨hna, -⟩ := ne_of_isInert hi
    simp [hb, hna]
  | ignoresInput hi hb' => simp [hb] at hb'
  | _ => simp_all

theorem busy_kept (he : RowEffect s i r t) (hb : s.busy = true) : t.busy = true := by
  cases he <;> simp [hb]

theorem done_kept_clear (he : RowEffect s i r t) (hd : s.done = false) : t.done = false := by
  cases he <;> simp [hd]

theorem done_cleared (he : RowEffect s i r t) (hd : s.done = true) (hb : s.busy = false) (herr : s.err = false)
    (ha : i.applies s.busy = true) :
    t.done = false ↔ i = .assign ∨ i = .clrstat ∨ writesInput i = true ∨ ∃ w, i = .illegalCmd w := by
  cases he with
  | inert hi en r =>
    obtain ⟨hna, hnc, hni, -, hnw⟩ := ne_of_isInert hi
    simp [hd, hna, hnc, hni, hnw]
  | ignoresInput hi hb' => simp [hb] at hb'
  | ignoresCommand w hw => simp [Instr.applies, hb] at ha
  | _ => simp_all [writesInput]

theorem err_set (he : RowEffect s i r t) (herr : s.err = false) : t.err = true ↔ ∃ w, i = .illegalCmd w := by
  cases he with
  | inert hi en r =>
    obtain ⟨-, -, hni, -⟩ := ne_of_isInert hi
    simp [herr, hni]
  | ignoresInput hi hb =>
    obtain ⟨-, -, hni⟩ := ne_of_writesInput hi
    simp [herr, hni]
  | _ => simp_all

theorem err_cleared (he : RowEffect s i r t) (herr : s.err = true) : t.err = false ↔ i = .clrstat := by
  cases he with
  | inert hi en r =>
    obtain ⟨-, hnc, -⟩ := ne_of_isInert hi
    simp [herr, hnc]
  | ignoresInput hi hb =>
    obtain ⟨-, hnc, -⟩ := ne_of_writesInput hi
    simp [herr, hnc]
  | _ => simp_all

theorem err_kept (he : RowEffect s i r t) (herr : s.err = true) (ht : t.err = true) :
    t.errCode = s.errCode ∧ t.errIndex = s.errIndex ∧ t.errLen = s.errLen := by
  cases he <;> simp_all

theorem wign_cleared (he : RowEffect s i r t) (hw : s.wign = true) : t.wign = false ↔ i = .clrstat := by
  cases he with
  | inert hi en r =>
    obtain ⟨-, hnc, -⟩ := ne_of_isInert hi
    simp [hw, hnc]
  | ignoresInput hi hb =>
    obtain ⟨-, hnc, -⟩ := ne_of_writesInput hi
    simp [hnc]
  | _ => simp [hw]

theorem wign_set (he : RowEffect s i r t) (hw : s.wign = false) :
    t.wign = true ↔ (s.busy = true ∧ writesInput i = true) ∨ (∃ w, w ≠ 0#32 ∧ i = .cmdWhileBusy w)
      ∨ (s.err = true ∧ (i = .assign ∨ ∃ w, i = .illegalCmd w)) := by
  cases he with
  | inert hi en r =>
    obtain ⟨hna, -, hni, hn0, hnw⟩ := ne_of_isInert hi
    simp only [hw, hna, hni, hnw, Bool.false_eq_true, exists_const, and_false, or_false, false_or, false_iff]
    rintro ⟨w, hw0, hi⟩
    exact hw0 (hn0 w hi)
  | ignoresInput hi hb => simp [hi, hb]
  | _ => simp_all [writesInput]

/-- An ignored write sets `WIGN` and answers; it changes no other field (R122, R207). -/
theorem eq_of_wign_set (he : RowEffect s i r t) (hw : s.wign = false) (ht : t.wign = true) :
    t = ignoredWrite s ∧ r = .write .okay := by
  cases he <;> simp_all

end RowEffect

/-! ## What a step does, by the next input -/

/-- `step_cases` in the words of the statements about status bits: exactly one of the three kinds of input is next. -/
inductive StepEffect (s t : State) : Prop where
  | turn (hq : sequencerNext s) (hr : ¬ resetNext s) (hn : ∀ p, ¬ rowNext s p)
      (he : TurnEffect { s with schedule := s.schedule.tail } t)
  | reset (hq : ¬ sequencerNext s) (hr : resetNext s) (hn : ∀ p, ¬ rowNext s p)
      (ht : t = resetBlock { s with schedule := s.schedule.tail })
  | row (hq : ¬ sequencerNext s) (hr : ¬ resetNext s) {i : Instr} (hn : ∀ p, rowNext s p ↔ p i)
      (ha : i.applies s.busy = true) {r : Response} {s' : State}
      (he : RowEffect { s with schedule := s.schedule.tail } i r s') (ht : t = respond r s')

theorem step_effect {s t : State} (h : step s = .next t) : StepEffect s t := by
  obtain ⟨hs, he⟩ | ⟨rest, hs, he⟩ | ⟨rest, hs, ht⟩ | ⟨tr, rest, -, -, hs, -⟩ := step_cases h
  · refine .turn (.inl hs) ?_ ?_ ?_
    · simp [resetNext, hs]
    · simp [rowNext, hs]
    · rw [hs, List.tail_nil, ← hs]
      exact he
  · refine .turn (.inr ⟨rest, hs⟩) ?_ ?_ ?_
    · simp [resetNext, hs]
    · simp [rowNext, hs]
    · rw [hs]
      exact he
  · refine .reset ?_ ⟨rest, hs⟩ ?_ ?_
    · simp [sequencerNext, hs]
    · simp [rowNext, hs]
    · rw [hs]
      exact ht
  · rw [step_of_row hs] at h
    obtain ⟨r, s', ht, he⟩ := exec_row h (rowOf_applies s tr) (fun _ _ => rowOf_wrLen_lt) (rowOf_ne_wrCmd s tr)
    refine .row ?_ ?_ (i := rowOf s tr) ?_ (rowOf_applies s tr) (r := r) (s' := s') ?_ ht
    · simp [sequencerNext, hs]
    · simp [resetNext, hs]
    · simp [rowNext, hs]
    · rw [hs]
      exact he

/-! ## The status bits -/

/-- Settles O43: of the rows only `ASSIGN` writes `BUSY`; both commits and reset clear it. -/
theorem onlyAssignSetsBusy : Obligations.OnlyAssignSetsBusy := by
  intro s t h
  cases step_effect h with
  | turn hq hr hn he => cases he <;> simp_all
  | reset hq hr hn ht => simp_all
  | row hq hr hn ha he ht =>
    subst ht
    refine ⟨fun hb => ?_, fun hb => ?_⟩
    · simpa [hn] using he.busy_set hb
    · simpa [hq, hr] using he.busy_kept hb

/-- Settles O44: of the turns only a success sets `DONE`; of the rows those that start, clear, raise or write an input
clear it, which in a DONE state none of them is kept from. -/
theorem whatSetsAndClearsDone : Obligations.WhatSetsAndClearsDone := by
  intro s t hinv h
  cases step_effect h with
  | turn hq hr hn he =>
    cases he with
    | notEnabled hb => simp_all
    | succeeds hb codes bl nc hc => simp_all [hinv.only_busy hb]
    | fails hb cause index len hc => simp_all [hinv.only_busy hb]
  | reset hq hr hn ht => simp_all
  | row hq hr hn ha he ht =>
    subst ht
    refine ⟨fun hd => ?_, fun hd => ?_⟩
    · simpa [hq] using he.done_kept_clear hd
    · obtain ⟨hb, herr⟩ := hinv.only_done hd
      simpa [hn, hr] using he.done_cleared hd hb herr ha

/-- Settles O45: of the turns only a failure sets `ERR`, of the rows only an illegal command; `CLRSTAT` alone clears it,
and no row that leaves it writes the error fields. -/
theorem firstErrorIsKeptUntilClrstat : Obligations.FirstErrorIsKeptUntilClrstat := by
  intro s t hinv h
  cases step_effect h with
  | turn hq hr hn he =>
    cases he with
    | notEnabled hb => simp_all
    | succeeds hb codes bl nc hc => simp_all [hinv.only_busy hb]
    | fails hb cause index len hc => simp_all [hinv.only_busy hb]
  | reset hq hr hn ht => simp_all
  | row hq hr hn ha he ht =>
    subst ht
    refine ⟨fun herr => ?_, fun herr => ⟨?_, ?_⟩⟩
    · simpa [hn, hq] using he.err_set herr
    · simpa [hn, hr] using he.err_cleared herr
    · exact he.err_kept herr

/-- Settles O46: no turn writes `WIGN`, reset clears it, and the rows that set it are ignored writes. -/
theorem wignIsSticky : Obligations.WignIsSticky := by
  intro s t h
  cases step_effect h with
  | turn hq hr hn he => cases he <;> simp_all
  | reset hq hr hn ht => simp_all
  | row hq hr hn ha he ht =>
    subst ht
    refine ⟨fun hw => ?_, fun hw => ⟨?_, fun hset => ?_⟩⟩
    · simpa [hn, hr] using he.wign_cleared hw
    · simpa [hn] using he.wign_set hw
    · obtain ⟨rfl, rfl⟩ := he.eq_of_wign_set hw hset
      exact ⟨_, rfl, rfl, rfl⟩

/-! ## The result memories -/

theorem HostEffect.results_eq {s t : State} (h : HostEffect s t) :
    t.codeMem = s.codeMem ∧ t.blCount = s.blCount ∧ t.nextCode = s.nextCode := by
  cases h <;> exact ⟨rfl, rfl, rfl⟩

theorem TurnEffect.results_eq {s t : State} (h : TurnEffect s t) :
    (t.codeMem = s.codeMem ∧ t.blCount = s.blCount ∧ t.nextCode = s.nextCode)
      ∨ (s.busy = true ∧ ∃ codes bl nc, canonAssign s.cfg.nMax s.lenMem s.nsym s.maxbits = .ok codes bl nc) := by
  cases h with
  | notEnabled _ => exact .inl ⟨rfl, rfl, rfl⟩
  | succeeds hb codes bl nc hr => exact .inr ⟨hb, codes, bl, nc, hr⟩
  | fails _ cause index len _ => exact .inl ⟨rfl, rfl, rfl⟩

/-- Settles O47: no transaction writes a result, and of the two commits only a success does. -/
theorem onlyCompletionWritesResults : Obligations.OnlyCompletionWritesResults := by
  intro s t h
  obtain ⟨hs, he⟩ | ⟨rest, hs, he⟩ | ⟨rest, hs, -⟩ | ⟨tr, rest, r, s', -, -, rfl, he⟩ := step_cases h
  · exact he.results_eq.imp_right fun ⟨hb, hr⟩ => .inr ⟨hb, .inl hs, hr⟩
  · exact he.results_eq.imp_right fun ⟨hb, hr⟩ => .inr ⟨hb, .inr ⟨rest, hs⟩, hr⟩
  · exact .inr (.inl ⟨rest, hs⟩)
  · exact .inl he.results_eq

end Sys2Proof.Machine

/-! # What the gates hide is never observed (R42, R169) -/

namespace Sys2Proof.Machine

/-- The same state with other contents of the result memories. -/
def withResults (m : Memory 32) (bl nc : Vector Word Config.nl) (s : State) : State :=
  { s with codeMem := m, blCount := bl, nextCode := nc }

/-- Result memories that look like those of `s` through the gates of R117, R118 and R121. -/
structure SameShown (s : State) (m : Memory 32) (bl nc : Vector Word Config.nl) : Prop where
  code : s.done = true → ∀ i, i < s.nsym.toNat → s.codeMem.read i = m.read i
  blCount : s.done = true → s.blCount = bl
  nextCode : s.done = true → s.nextCode = nc

theorem SameShown.of_not_done {s : State} (hd : s.done = false) (m : Memory 32) (bl nc : Vector Word Config.nl) :
    SameShown s m bl nc := by
  constructor <;> simp [hd]

theorem SameShown.sameView {s : State} {m : Memory 32} {bl nc : Vector Word Config.nl} (h : SameShown s m bl nc) :
    SameView s (withResults m bl nc s) :=
  ⟨⟨rfl, rfl, rfl, rfl, rfl, rfl, rfl, rfl, rfl, rfl, rfl, rfl⟩, rfl, rfl,
    fun hd => ⟨h.code hd, h.blCount hd, h.nextCode hd⟩⟩

theorem SameView.refl (s : State) : SameView s s :=
  SameShown.sameView ⟨fun _ _ _ => rfl, fun _ => rfl, fun _ => rfl⟩

theorem SameView.exists_results {s t : State} (h : SameView s t) :
    ∃ m bl nc, t = withResults m bl nc s ∧ SameShown s m bl nc := by
  obtain ⟨⟨hcfg, hnsym, hmaxbits, hirq, hbusy, hdone, herr, hwign, hcode, hindex, hlen, hmem⟩, hsch, hresp, hshown⟩ := h
  refine ⟨t.codeMem, t.blCount, t.nextCode, ?_, fun hd => (hshown hd).1, fun hd => (hshown hd).2.1,
    fun hd => (hshown hd).2.2⟩
  cases s
  cases t
  simp_all [withResults]

/-! ## Every row but the reads of results commutes with a change of the result memories -/

section Results

variable (m : Memory 32) (bl nc : Vector Word Config.nl) (s : State)

theorem busyCommand_withResults (w : Word) :
    busyCommand w (withResults m bl nc s) = withResults m bl nc (busyCommand w s) := by
  simp only [busyCommand, apply_ite (withResults m bl nc)]
  rfl

theorem commandAssign_withResults :
    commandAssign (withResults m bl nc s) = withResults m bl nc (commandAssign s) := by
  simp only [commandAssign, apply_ite (withResults m bl nc)]
  rfl

theorem commandIllegal_withResults :
    commandIllegal (withResults m bl nc s) = withResults m bl nc (commandIllegal s) := by
  simp only [commandIllegal, apply_ite (withResults m bl nc)]
  rfl

theorem command_withResults (w : Word) :
    command w (withResults m bl nc s) = withResults m bl nc (command w s) := by
  simp only [command, busyCommand_withResults, commandAssign_withResults, commandIllegal_withResults,
    apply_ite (withResults m bl nc)]
  rfl

theorem runCommand_withResults (w : Word) {body : State → State}
    (hbody : body (withResults m bl nc s) = withResults m bl nc (body s)) :
    runCommand w body (withResults m bl nc s) = withResults m bl nc (runCommand w body s) := by
  simp only [runCommand, hbody, busyCommand_withResults, apply_ite (withResults m bl nc)]
  rfl

theorem writeInput_withResults (stored : State) :
    writeInput (withResults m bl nc stored) (withResults m bl nc s) = withResults m bl nc (writeInput stored s) := by
  simp only [writeInput, apply_ite (withResults m bl nc)]
  rfl

theorem readSlot_withResults (i : SymIndex) (rdata : Word) :
    readSlot i rdata (withResults m bl nc s) = withResults m bl nc (readSlot i rdata s) := by
  simp only [readSlot, apply_ite (withResults m bl nc)]
  rfl

theorem answerWrite_withResults {s t : State} (h : t = withResults m bl nc s) :
    (.next (answerWrite t) : Host.Outcome State Fault Refusal) = .next (withResults m bl nc (answerWrite s)) := by
  subst h
  rfl

/-- A gated array shows the same entry: the register while `DONE = 1`, 0 otherwise. -/
theorem gatedTable_shown {s : State} {regs regs' : Vector Word Config.nl} (h : s.done = true → regs = regs')
    (L : LenIndex) : gatedTable regs' L (withResults m bl nc s) = gatedTable regs L s := by
  unfold gatedTable
  cases hd : s.done with
  | false => simp [withResults, hd]
  | true => simp [withResults, hd, h hd]

variable {m bl nc s}

theorem gatedCode_shown (h : SameShown s m bl nc) (i : SymIndex) :
    gatedCode i (withResults m bl nc s) = gatedCode i s := by
  unfold gatedCode
  change (if s.done = true ∧ i.toNat < s.nsym.toNat then m.read i.toNat else 0#32) = _
  by_cases hg : s.done = true ∧ i.toNat < s.nsym.toNat
  · rw [if_pos hg, if_pos hg, h.code hg.1 _ hg.2]
  · rw [if_neg hg, if_neg hg]

/-- A row that is run on other hidden results has the same effect and the same answer. -/
theorem exec_withResults (hsh : SameShown s m bl nc) {i : Instr} {t : State} (h : exec i s = .next t) :
    exec i (withResults m bl nc s) = .next (withResults m bl nc t) := by
  cases i
  case nop => cases h; exact answerWrite_withResults _ _ _ (runCommand_withResults m bl nc s _ rfl)
  case assign =>
    cases h
    exact answerWrite_withResults _ _ _ (runCommand_withResults m bl nc s _ (commandAssign_withResults m bl nc s))
  case clrstat => cases h; exact answerWrite_withResults _ _ _ (runCommand_withResults m bl nc s _ rfl)
  case illegalCmd w =>
    cases h
    exact answerWrite_withResults _ _ _ (runCommand_withResults m bl nc s w (commandIllegal_withResults m bl nc s))
  case cmdWhileBusy w => cases h; exact answerWrite_withResults _ _ _ (command_withResults m bl nc s w)
  case wrCmd w => cases h; exact answerWrite_withResults _ _ _ (command_withResults m bl nc s w)
  case wrNsym w =>
    cases h
    exact answerWrite_withResults _ _ _ (writeInput_withResults m bl nc s { s with nsym := w })
  case wrMaxbits w =>
    cases h
    exact answerWrite_withResults _ _ _ (writeInput_withResults m bl nc s { s with maxbits := w })
  case wrLen slot w =>
    cases h
    have hw := writeInput_withResults m bl nc s { s with lenMem := s.lenMem.write slot.toNat (saturateLen w) }
    refine congrArg Host.Outcome.next ?_
    rw [apply_ite (withResults m bl nc)]
    exact congrArg (fun u => if slot.toNat < s.cfg.nMax then answerWrite u else refuseWrite (withResults m bl nc s)) hw
  case rdBlCount L =>
    cases h
    exact congrArg (fun v => Host.Outcome.next (answerRead v (withResults m bl nc s)))
      (gatedTable_shown m bl nc hsh.blCount L)
  case rdNextCode L =>
    cases h
    exact congrArg (fun v => Host.Outcome.next (answerRead v (withResults m bl nc s)))
      (gatedTable_shown m bl nc hsh.nextCode L)
  case rdLen slot => cases h; exact congrArg Host.Outcome.next (readSlot_withResults m bl nc s slot _)
  case rdCode slot =>
    cases h
    have hr := readSlot_withResults m bl nc s slot (gatedCode slot s)
    rw [← hr, ← gatedCode_shown hsh slot]
    rfl
  case misaligned r => cases h; cases r <;> rfl
  case unmapped r => cases h; cases r <;> rfl
  all_goals cases h; rfl

/-! ## What is hidden stays hidden -/

/-- A transaction sets no `DONE` and, while it leaves `DONE` at 1, changes neither `NSYM` nor a result. -/
theorem HostEffect.sameShown {t : State} (he : HostEffect s t) (h : SameShown s m bl nc) : SameShown t m bl nc := by
  cases he with
  | unchanged => exact h
  | ignored _ => exact ⟨h.code, h.blCount, h.nextCode⟩
  | writesIrqEn en => exact ⟨h.code, h.blCount, h.nextCode⟩
  | _ => exact .of_not_done rfl m bl nc

theorem sequencerTurn_of_busy (hb : s.busy = true) : sequencerTurn s = complete s := by
  simp only [sequencerTurn, hb, if_true]

theorem sequencerTurn_of_not_busy (hb : s.busy = false) : sequencerTurn s = s := by
  simp only [sequencerTurn, hb, Bool.false_eq_true, if_false]

theorem complete_of_ok {codes : List Nat} {b n : LenTable}
    (hc : canonAssign s.cfg.nMax s.lenMem s.nsym s.maxbits = .ok codes b n) :
    complete s = commitSuccess codes b n s := by
  simp only [complete, hc]

theorem complete_of_err {cause : ErrCause} {index len : Nat}
    (hc : canonAssign s.cfg.nMax s.lenMem s.nsym s.maxbits = .err cause index len) :
    complete s = commitError cause index len s := by
  simp only [complete, hc]

/-- A success overwrites all that becomes visible. -/
theorem commitSuccess_sameShown (hs : s.codeMem.wf = true) (hm : m.wf = true) {codes : List Nat} {b n : LenTable}
    (hc : canonAssign s.cfg.nMax s.lenMem s.nsym s.maxbits = .ok codes b n) :
    SameShown (commitSuccess codes b n s) (storeCodes m 0 codes) (tableRegisters b) (tableRegisters n) where
  code := fun _ i hi => by
    have hi : 0 ≤ i ∧ i < 0 + codes.length := by
      rw [canonAssign_codes_length hc]
      exact ⟨Nat.zero_le i, by simpa using hi⟩
    rw [commitSuccess_codeMem, storeCodes_read _ _ _ _ hs, storeCodes_read _ _ _ _ hm, if_pos hi, if_pos hi]
  blCount := fun _ => rfl
  nextCode := fun _ => rfl

/-- A turn on other hidden results: a success overwrites them, a failure leaves them hidden. -/
theorem sequencerTurn_withResults (hs : s.codeMem.wf = true) (hm : m.wf = true) (hsh : SameShown s m bl nc) :
    ∃ m' bl' nc', sequencerTurn (withResults m bl nc s) = withResults m' bl' nc' (sequencerTurn s)
      ∧ SameShown (sequencerTurn s) m' bl' nc' ∧ m'.wf = true := by
  cases hb : s.busy with
  | false =>
    rw [sequencerTurn_of_not_busy hb, sequencerTurn_of_not_busy (s := withResults m bl nc s) hb]
    exact ⟨m, bl, nc, rfl, hsh, hm⟩
  | true =>
    rw [sequencerTurn_of_busy hb, sequencerTurn_of_busy (s := withResults m bl nc s) hb]
    cases hc : canonAssign s.cfg.nMax s.lenMem s.nsym s.maxbits with
    | ok codes b n =>
      rw [complete_of_ok hc, complete_of_ok (s := withResults m bl nc s) hc]
      exact ⟨_, _, _, rfl, commitSuccess_sameShown hs hm hc, storeCodes_wf codes m 0 hm⟩
    | err cause index len =>
      rw [complete_of_err hc, complete_of_err (s := withResults m bl nc s) hc]
      exact ⟨m, bl, nc, rfl, .of_not_done rfl m bl nc, hm⟩

end Results

/-- Settles O54: every operation commutes with a change of the hidden results, and a success overwrites what it
shows. -/
theorem hiddenResultsAreUnobservable : Obligations.HiddenResultsAreUnobservable := by
  intro s t s' hinv hwf hview h
  obtain ⟨m, bl, nc, rfl, hsh⟩ := hview.exists_results
  have hm : m.wf = true := hwf
  have hsh' (rest : List Event) : SameShown { s with schedule := rest } m bl nc := ⟨hsh.code, hsh.blCount, hsh.nextCode⟩
  match hs : s.schedule with
  | [] =>
    rw [step_of_schedule_nil hs] at h
    cases h
    obtain ⟨m', bl', nc', ht, ht', hm'⟩ := sequencerTurn_withResults hinv.codeWf hm hsh
    exact ⟨_, (step_of_schedule_nil (s := withResults m bl nc s) hs).trans (congrArg _ ht), ht'.sameView, hm'⟩
  | .sequencer :: rest =>
    rw [step_of_schedule_sequencer hs] at h
    cases h
    obtain ⟨m', bl', nc', ht, ht', hm'⟩ :=
      sequencerTurn_withResults (s := { s with schedule := rest }) hinv.codeWf hm (hsh' rest)
    exact ⟨_, (step_of_schedule_sequencer (s := withResults m bl nc s) hs).trans (congrArg _ ht), ht'.sameView, hm'⟩
  | .reset :: rest =>
    rw [step_of_schedule_reset hs] at h
    cases h
    exact ⟨_, step_of_schedule_reset (s := withResults m bl nc s) hs, .refl _, rfl⟩
  | .transaction tr :: rest =>
    rw [step_of_schedule_transaction hs] at h
    obtain ⟨r, u, rfl, he⟩ := exec_cases h
    have hu : SameShown u m bl nc := he.sameShown (hsh' rest)
    have hst := exec_withResults (hsh' rest) h
    exact ⟨_, (step_of_schedule_transaction (s := withResults m bl nc s) hs).trans hst,
      SameShown.sameView ⟨hu.code, hu.blCount, hu.nextCode⟩, hm⟩

end Sys2Proof.Machine

/-! # The window, reads and `wait_idle` (R60, R66, R72) -/

namespace Sys2Proof.Machine

/-! ## The window in the platform's address map -/

/-- Settles O6: an address at or above the base is the base and its distance from it, and the window holds the distances
that 20 bits can write. -/
theorem windowAddressesReachTheirOffset : Obligations.WindowAddressesReachTheirOffset := by
  intro cfg addr off
  have hoff : off.toNat < 2 ^ 20 := off.isLt
  rw [windowOffset, Option.ite_none_right_eq_some, Option.some.injEq, ← BitVec.toNat_inj, BitVec.toNat_ofNat]
  constructor
  · rintro ⟨⟨hlo, hhi⟩, h⟩
    rw [Nat.mod_eq_of_lt (by omega)] at h
    omega
  · rintro rfl
    refine ⟨⟨by omega, by omega⟩, ?_⟩
    rw [Nat.add_sub_cancel_left, Nat.mod_eq_of_lt hoff]

/-! ## A read only puts its answer on the port -/

theorem readSlot_eq_respond (i : SymIndex) (rdata : Word) (s : State) :
    ∃ v resp, readSlot i rdata s = respond (.read v resp) s := by
  unfold readSlot
  split
  · exact ⟨rdata, .okay, rfl⟩
  · exact ⟨0#32, .error, rfl⟩

theorem exec_readRow (p : Target) (s : State) :
    ∃ v resp, exec (readRow p) s = .next (respond (.read v resp) s) := by
  cases p
  case len i =>
    obtain ⟨v, resp, h⟩ := readSlot_eq_respond i (lenReadData (s.lenMem.read i.toNat)) s
    exact ⟨v, resp, congrArg _ h⟩
  case code i =>
    obtain ⟨v, resp, h⟩ := readSlot_eq_respond i (gatedCode i s) s
    exact ⟨v, resp, congrArg _ h⟩
  all_goals exact ⟨_, _, rfl⟩

theorem exec_decodeBus_read (nMax : Nat) (off : Offset) (s : State) :
    ∃ v resp, exec (decodeBus nMax (.read off)) s = .next (respond (.read v resp) s) := by
  cases hp : decodeOffset nMax off <;> simp only [decodeBus, hp]
  case misaligned => exact ⟨_, _, rfl⟩
  case unmapped => exact ⟨_, _, rfl⟩
  case mapped p => exact exec_readRow p s

/-- Settles O17: a read is refused for its offset or runs the read row of its place; either only answers. -/
theorem readsChangeNothing : Obligations.ReadsChangeNothing := by
  intro s t off rest hs h
  obtain ⟨v, resp, hr⟩ := exec_decodeBus_read s.cfg.nMax off { s with schedule := rest }
  rw [step_of_schedule_transaction hs] at h
  cases h.symm.trans hr
  exact ⟨v, resp, rfl⟩

/-! ## Runs -/

theorem run_succ_of_step {s t : State} (h : step s = .next t) (n : Nat) :
    Host.Core.run core (n + 1) s = Host.Core.run core n t := by
  simp only [Host.Core.run, core, h]

theorem run_add_of_run (n : Nat) {t : State} :
    ∀ (m : Nat) (s : State), Host.Core.run core m s = .next t → Host.Core.run core (m + n) s = Host.Core.run core n t
  | 0, s, h => by
    cases h
    rw [Nat.zero_add]
  | m + 1, s, h => by
    obtain ⟨u, hu⟩ := everyStepAnswersNext s
    rw [run_succ_of_step hu] at h
    rw [Nat.succ_add, run_succ_of_step hu]
    exact run_add_of_run n m u h

/-! ## The bits of `STATUS` -/

theorem statusWord_busy (s : State) : (statusWord s).getLsbD 0 = s.busy := by
  simp only [statusWord, BitVec.getLsbD_append]
  simp

theorem statusWord_done (s : State) : (statusWord s).getLsbD 1 = s.done := by
  simp only [statusWord, BitVec.getLsbD_append]
  simp

theorem statusWord_err (s : State) : (statusWord s).getLsbD 2 = s.err := by
  simp only [statusWord, BitVec.getLsbD_append]
  simp

/-! ## Polls -/

/-- The state after a read of `STATUS`, with the inputs `rest` still to come. -/
def polled (rest : List Event) (s : State) : State :=
  respond (.read (statusWord s) .okay) { s with schedule := rest }

theorem step_poll {s : State} {rest : List Event} (hs : s.schedule = (rd .status).event :: rest) :
    step s = .next (polled rest s) :=
  step_of_schedule_transaction hs

/-- A poll leaves `STATUS` as it is, so every further poll reads the same word. -/
theorem run_polls (rest : List Event) : ∀ (k : Nat) (s : State),
    s.schedule = List.replicate (k + 1) (rd .status).event ++ rest →
      Host.Core.run core (k + 1) s = .next (polled rest s)
  | 0, _, hs => run_succ_of_step (step_poll hs) 0
  | k + 1, s, hs =>
    (run_succ_of_step (step_poll hs) (k + 1)).trans (run_polls rest k (polled _ s) rfl)

/-- Any number of polls, none among them, changes only the inputs still to come and the port's answer. -/
theorem run_polls_frame {rest : List Event} {k : Nat} {s : State}
    (hs : s.schedule = List.replicate k (rd .status).event ++ rest) :
    ∃ r, Host.Core.run core k s = .next { s with schedule := rest, response := r } := by
  cases k with
  | zero =>
    refine ⟨s.response, congrArg Host.Outcome.next ?_⟩
    cases s
    cases hs
    rfl
  | succ k => exact ⟨_, run_polls rest k s hs⟩

/-! ## The end of the operation -/

/-- The completion step ends `BUSY` and leaves the kind of its result in `STATUS`. -/
theorem complete_status {s : State} (he : s.err = false) :
    (complete s).busy = false
      ∧ ((complete s).done = true ↔
          ∃ codes bl nc, canonAssign s.cfg.nMax s.lenMem s.nsym s.maxbits = .ok codes bl nc)
      ∧ ((complete s).err = true ↔
          ∃ cause index len, canonAssign s.cfg.nMax s.lenMem s.nsym s.maxbits = .err cause index len) := by
  cases hc : canonAssign s.cfg.nMax s.lenMem s.nsym s.maxbits with
  | ok codes bl nc => simp [complete_of_ok hc, he]
  | err cause index len => simp [complete_of_err hc]

theorem complete_schedule (s : State) : (complete s).schedule = s.schedule := by
  unfold complete
  split <;> rfl

/-- The last two inputs of `wait_idle`: the completion step, and the poll that sees its end. -/
theorem run_completion_poll {s : State} {rest : List Event} (hb : s.busy = true)
    (hs : s.schedule = .sequencer :: (rd .status).event :: rest) :
    Host.Core.run core 2 s
      = .next (polled rest (complete { s with schedule := (rd .status).event :: rest })) := by
  have hturn := step_of_schedule_sequencer hs
  rw [sequencerTurn_of_busy (s := { s with schedule := (rd .status).event :: rest }) hb] at hturn
  rw [run_succ_of_step hturn, run_succ_of_step (step_poll (complete_schedule _))]
  rfl

/-- Settles O52: the polls before the completion step read the `STATUS` of the BUSY state, the poll after it that of the
completed one. -/
theorem waitIdleEndsWithTheOperation : Obligations.WaitIdleEndsWithTheOperation := by
  intro s polls rest hinv hb hs
  have hs' : s.schedule =
      List.replicate polls (rd .status).event ++ .sequencer :: (rd .status).event :: rest := by
    rw [hs, waitIdle, List.append_assoc]
    rfl
  constructor
  · intro k hk
    obtain ⟨m, rfl⟩ := Nat.exists_eq_add_of_le (Nat.succ_le_of_lt hk)
    rw [List.replicate_add, List.append_assoc] at hs'
    exact ⟨_, statusWord s, run_polls _ k s hs', rfl, (statusWord_busy s).trans hb⟩
  · obtain ⟨r, hpolls⟩ := run_polls_frame hs'
    have hend := (run_add_of_run 2 polls s hpolls).trans (run_completion_poll hb rfl)
    obtain ⟨hbusy, hdone, herr⟩ := complete_status
      (s := { s with schedule := (rd .status).event :: rest, response := r }) (hinv.only_busy hb).2
    refine ⟨_, _, hend, rfl, hbusy, rfl, ?_, ?_, ?_⟩
    · rw [statusWord_busy, hbusy]
    · rw [statusWord_done]
      exact hdone
    · rw [statusWord_err]
      exact herr

end Sys2Proof.Machine

/-! # The codec of transactions (R63, R64, R80 to R84, R95, R100, R140)

Both round trips rest on three facts about the address map: every place with an index in bounds is found at its own offset,
every offset the decoder refuses is refused for the reason R62 or R64 gives, and every other offset is that of a place. -/

namespace Sys2Proof

/-! ## The address map, read both ways -/

/-- The places there are with `nMax` slots (R63): the index of a `LEN` or `CODE` place is below `nMax`. -/
def Target.inBounds (nMax : Nat) : Target → Bool
  | .len i => i.toNat < nMax
  | .code i => i.toNat < nMax
  | _ => true

theorem aligned_iff (off : Offset) : aligned off = true ↔ off.extractLsb' 0 2 = 0#2 := by simp [aligned]

theorem Target.aligned_offset (t : Target) : aligned t.offset = true := by
  rw [aligned_iff, lowBits_eq_zero_iff]
  cases t
  case len i => rw [offset_len_toNat]; omega
  case code i => rw [offset_code_toNat]; omega
  case blCount L => rw [offset_blCount_toNat]; omega
  case nextCode L => rw [offset_nextCode_toNat]; omega
  all_goals rfl

/-! The indices of R70 are read back from the offsets of R63. -/

theorem symIndexOf_offset_len (i : SymIndex) : symIndexOf (Target.len i).offset = i := by
  apply BitVec.eq_of_toNat_eq
  rw [symIndexOf_toNat, Target.offset_len_toNat]
  omega

theorem symIndexOf_offset_code (i : SymIndex) : symIndexOf (Target.code i).offset = i := by
  apply BitVec.eq_of_toNat_eq
  rw [symIndexOf_toNat, Target.offset_code_toNat]
  omega

theorem lenIndexOf_offset_blCount (L : LenIndex) : lenIndexOf (Target.blCount L).offset = L := by
  apply BitVec.eq_of_toNat_eq
  rw [lenIndexOf_toNat, Target.offset_blCount_toNat]
  omega

theorem lenIndexOf_offset_nextCode (L : LenIndex) : lenIndexOf (Target.nextCode L).offset = L := by
  apply BitVec.eq_of_toNat_eq
  rw [lenIndexOf_toNat, Target.offset_nextCode_toNat]
  omega

/-- Every place with an index in bounds is found at its offset. -/
theorem decodeOffset_offset {nMax : Nat} {t : Target} (h : t.inBounds nMax = true) :
    decodeOffset nMax t.offset = .mapped t := by
  have hal := not_not.mpr ((aligned_iff _).mp t.aligned_offset)
  cases t
  case len i =>
    have hi := i.isLt
    have ho := Target.offset_len_toNat i
    have hn : ¬ nMax ≤ i.toNat := not_le.mpr (of_decide_eq_true h)
    rw [decodeOffset, if_neg hal, if_pos (by omega), symIndexOf_offset_len, if_neg hn]
  case code i =>
    have hi := i.isLt
    have ho := Target.offset_code_toNat i
    have hn : ¬ nMax ≤ i.toNat := not_le.mpr (of_decide_eq_true h)
    rw [decodeOffset, if_neg hal, if_neg (by omega), if_pos (by omega), symIndexOf_offset_code, if_neg hn]
  case blCount L =>
    have hL := L.isLt
    have ho := Target.offset_blCount_toNat L
    rw [decodeOffset, if_neg hal, if_neg (by omega), if_neg (by omega), if_pos (by omega), lenIndexOf_offset_blCount]
  case nextCode L =>
    have hL := L.isLt
    have ho := Target.offset_nextCode_toNat L
    rw [decodeOffset, if_neg hal, if_neg (by omega), if_neg (by omega), if_neg (by omega), if_pos (by omega),
      lenIndexOf_offset_nextCode]
  all_goals rfl

theorem decodeOffset_of_misaligned {nMax : Nat} {off : Offset} (h : aligned off = false) :
    decodeOffset nMax off = .misaligned := by
  rw [decodeOffset, if_pos]
  simpa [aligned] using h

/-- The set of R64 with the two windows told by the index R70 reads. -/
theorem inUnmappedSet_iff (nMax : Nat) (off : Offset) :
    inUnmappedSet nMax off = true ↔
      (0x40000 ≤ off.toNat ∧ off.toNat ≤ 0x7FFFF ∧ nMax ≤ (symIndexOf off).toNat)
        ∨ (0x80000 ≤ off.toNat ∧ off.toNat ≤ 0xBFFFF ∧ nMax ≤ (symIndexOf off).toNat)
        ∨ (0x00020 ≤ off.toNat ∧ off.toNat ≤ 0x0003F) ∨ (0x000C0 ≤ off.toNat ∧ off.toNat ≤ 0x3FFFF)
        ∨ 0xC0000 ≤ off.toNat := by
  simp only [inUnmappedSet, Bool.or_eq_true, Bool.and_eq_true, decide_eq_true_eq, symIndexOf_toNat]
  omega

theorem decodeOffset_of_unmapped {nMax : Nat} {off : Offset} (ha : aligned off = true)
    (hu : inUnmappedSet nMax off = true) : decodeOffset nMax off = .unmapped := by
  have hal := not_not.mpr ((aligned_iff off).mp ha)
  obtain ⟨hlo, hhi, hn⟩ | ⟨hlo, hhi, hn⟩ | hgap := (inUnmappedSet_iff nMax off).mp hu
  · rw [decodeOffset, if_neg hal, if_pos ⟨hlo, hhi⟩, if_pos hn]
  · rw [decodeOffset, if_neg hal, if_neg (by omega), if_pos ⟨hlo, hhi⟩, if_pos hn]
  · have hne : ∀ c : Offset, c.toNat < 0x20 → off ≠ c := by
      rintro c hc rfl
      omega
    rw [decodeOffset, if_neg hal, if_neg (by omega), if_neg (by omega), if_neg (by omega), if_neg (by omega),
      if_neg (hne _ (by decide)), if_neg (hne _ (by decide)), if_neg (hne _ (by decide)), if_neg (hne _ (by decide)),
      if_neg (hne _ (by decide)), if_neg (hne _ (by decide)), if_neg (hne _ (by decide)), if_neg (hne _ (by decide))]

/-- The registers below the arrays, one word each. -/
theorem exists_register_of_lt {off : Offset} (h4 : off.toNat % 4 = 0) (h : off.toNat < 0x20) (nMax : Nat) :
    ∃ t : Target, t.offset = off ∧ t.inBounds nMax = true := by
  have hoff : off.toNat = 0x00 ∨ off.toNat = 0x04 ∨ off.toNat = 0x08 ∨ off.toNat = 0x0C ∨ off.toNat = 0x10
      ∨ off.toNat = 0x14 ∨ off.toNat = 0x18 ∨ off.toNat = 0x1C := by omega
  obtain h | h | h | h | h | h | h | h := hoff
  · exact ⟨.id, BitVec.eq_of_toNat_eq h.symm, rfl⟩
  · exact ⟨.param, BitVec.eq_of_toNat_eq h.symm, rfl⟩
  · exact ⟨.cmd, BitVec.eq_of_toNat_eq h.symm, rfl⟩
  · exact ⟨.status, BitVec.eq_of_toNat_eq h.symm, rfl⟩
  · exact ⟨.nsym, BitVec.eq_of_toNat_eq h.symm, rfl⟩
  · exact ⟨.maxbits, BitVec.eq_of_toNat_eq h.symm, rfl⟩
  · exact ⟨.irqEn, BitVec.eq_of_toNat_eq h.symm, rfl⟩
  · exact ⟨.errInfo, BitVec.eq_of_toNat_eq h.symm, rfl⟩

/-- The places and the unmapped set cover the aligned offsets (R62, R63, R64). -/
theorem exists_target_of_mapped {nMax : Nat} {off : Offset} (ha : aligned off = true)
    (hu : inUnmappedSet nMax off = false) : ∃ t : Target, t.offset = off ∧ t.inBounds nMax = true := by
  have h4 := (lowBits_eq_zero_iff off).mp ((aligned_iff off).mp ha)
  have hout := mt (inUnmappedSet_iff nMax off).mpr (by simp [hu])
  simp only [not_or, not_and, not_le] at hout
  obtain ⟨hlen, hcode, hgaps⟩ := hout
  have hi := symIndexOf_toNat off
  have hL := lenIndexOf_toNat off
  have hrange : off.toNat < 0x20 ∨ (0x40 ≤ off.toNat ∧ off.toNat ≤ 0x7F) ∨ (0x80 ≤ off.toNat ∧ off.toNat ≤ 0xBF)
      ∨ (0x40000 ≤ off.toNat ∧ off.toNat ≤ 0x7FFFF) ∨ (0x80000 ≤ off.toNat ∧ off.toNat ≤ 0xBFFFF) := by omega
  obtain hreg | ⟨hlo, hhi⟩ | ⟨hlo, hhi⟩ | ⟨hlo, hhi⟩ | ⟨hlo, hhi⟩ := hrange
  · exact exists_register_of_lt h4 hreg nMax
  · refine ⟨.blCount (lenIndexOf off), BitVec.eq_of_toNat_eq ?_, rfl⟩
    rw [Target.offset_blCount_toNat]
    omega
  · refine ⟨.nextCode (lenIndexOf off), BitVec.eq_of_toNat_eq ?_, rfl⟩
    rw [Target.offset_nextCode_toNat]
    omega
  · refine ⟨.len (symIndexOf off), BitVec.eq_of_toNat_eq ?_, decide_eq_true (hlen hlo hhi)⟩
    rw [Target.offset_len_toNat]
    omega
  · refine ⟨.code (symIndexOf off), BitVec.eq_of_toNat_eq ?_, decide_eq_true (hcode hlo hhi)⟩
    rw [Target.offset_code_toNat]
    omega

/-! ## A bus request decodes by the first check that fails, else to the row of its place (R82, R100) -/

theorem decodeBus_of_misaligned {nMax : Nat} {r : Request} (h : aligned r.off = false) :
    decodeBus nMax r = .misaligned r := by
  have hp := decodeOffset_of_misaligned (nMax := nMax) h
  cases r <;> simp only [Request.off] at hp <;> simp only [decodeBus, hp]

theorem decodeBus_of_unmapped {nMax : Nat} {r : Request} (ha : aligned r.off = true)
    (hu : inUnmappedSet nMax r.off = true) : decodeBus nMax r = .unmapped r := by
  have hp := decodeOffset_of_unmapped ha hu
  cases r <;> simp only [Request.off] at hp <;> simp only [decodeBus, hp]

section Place
variable {nMax : Nat} {t : Target}

theorem decodeBus_read_offset (h : t.inBounds nMax = true) : decodeBus nMax (.read t.offset) = readRow t := by
  simp only [decodeBus, decodeOffset_offset h]

theorem decodeBus_write_offset (h : t.inBounds nMax = true) (w : Word) (wstrb : Strobe) :
    decodeBus nMax (.write t.offset w wstrb)
      = if wstrb ≠ fullStrobe then .partialStrobe t.offset w wstrb else writeRow w t := by
  simp only [decodeBus, decodeOffset_offset h]

theorem decode_readOf {busy : Bool} (h : t.inBounds nMax = true) : decode nMax busy (readOf t) = readRow t :=
  decodeBus_read_offset h

theorem decode_writeOf {busy : Bool} {w : Word} (h : t.inBounds nMax = true) :
    decode nMax busy (writeOf t w) = writeRow w t :=
  (decodeBus_write_offset h w fullStrobe).trans (if_neg (not_not.mpr rfl))

end Place

theorem decodeBus_of_partialStrobe {nMax : Nat} {off : Offset} {w : Word} {wstrb : Strobe} (ha : aligned off = true)
    (hu : inUnmappedSet nMax off = false) (hs : wstrb ≠ fullStrobe) :
    decodeBus nMax (.write off w wstrb) = .partialStrobe off w wstrb := by
  obtain ⟨t, rfl, hin⟩ := exists_target_of_mapped ha hu
  rw [decodeBus_write_offset hin, if_pos hs]

/-! ## Encode, then decode -/

/-- Settles O1: a read or write row is found at its place's offset, a refused row's operand condition is the check that
refuses it, and a command row's word is its own. -/
theorem decodeInvertsEncode : Obligations.DecodeInvertsEncode := by
  intro nMax busy i hwf happ
  cases i
  case nop | assign | clrstat =>
    cases busy
    · rfl
    · cases happ
  case illegalCmd w =>
    obtain ⟨⟨h0, h1⟩, h2⟩ : (w ≠ 0#32 ∧ w ≠ 1#32) ∧ w ≠ 2#32 := by simpa [Instr.wellFormed] using hwf
    cases busy
    · simp only [encode, decode, decodeCmd, h0, h1, h2, if_false, Bool.false_eq_true]
    · cases happ
  case cmdWhileBusy w =>
    cases busy
    · cases happ
    · rfl
  case misaligned r => exact decodeBus_of_misaligned (by simpa [Instr.wellFormed] using hwf)
  case unmapped r =>
    obtain ⟨ha, hu⟩ : aligned r.off = true ∧ inUnmappedSet nMax r.off = true := by
      simpa [Instr.wellFormed] using hwf
    exact decodeBus_of_unmapped ha hu
  case partialStrobe off w wstrb =>
    obtain ⟨⟨ha, hu⟩, hs⟩ : (aligned off = true ∧ inUnmappedSet nMax off = false) ∧ wstrb ≠ fullStrobe := by
      simpa [Instr.wellFormed] using hwf
    exact decodeBus_of_partialStrobe ha hu hs
  case rdId | rdParam | rdCmd | rdStatus | rdNsym | rdMaxbits | rdIrqEn | rdErrInfo | rdBlCount | rdNextCode | rdLen
      | rdCode =>
    exact decode_readOf hwf
  case wrId | wrParam | wrCmd | wrStatus | wrNsym | wrMaxbits | wrIrqEn | wrErrInfo | wrBlCount | wrNextCode | wrLen
      | wrCode =>
    exact decode_writeOf hwf

/-! ## Decode, then encode -/

theorem encode_readRow (t : Target) : encode (readRow t) = readOf t := by cases t <;> rfl

theorem encode_writeRow (w : Word) (t : Target) : encode (writeRow w t) = writeOf t w := by cases t <;> rfl

theorem readRow_wellFormed (nMax : Nat) (t : Target) : (readRow t).wellFormed nMax = t.inBounds nMax := by
  cases t <;> rfl

theorem writeRow_wellFormed (nMax : Nat) (w : Word) (t : Target) :
    (writeRow w t).wellFormed nMax = t.inBounds nMax := by
  cases t <;> rfl

theorem encode_decodeCmd (busy : Bool) (w : Word) : encode (decodeCmd busy w) = .cmd w := by
  unfold decodeCmd
  split_ifs <;> simp_all [encode]

theorem decodeCmd_wellFormed (nMax : Nat) (busy : Bool) (w : Word) : (decodeCmd busy w).wellFormed nMax = true := by
  unfold decodeCmd
  split_ifs <;> simp_all [Instr.wellFormed]

/-- A request of a mapped offset is a request of the place that has this offset. -/
theorem encode_decodeBus_of_mapped {nMax : Nat} {r : Request} (ha : aligned r.off = true)
    (hu : inUnmappedSet nMax r.off = false) :
    encode (decodeBus nMax r) = .bus r ∧ (decodeBus nMax r).wellFormed nMax = true := by
  obtain ⟨t, ht, hin⟩ := exists_target_of_mapped ha hu
  cases r with
  | read off =>
    obtain rfl : t.offset = off := ht
    rw [decodeBus_read_offset hin]
    exact ⟨encode_readRow t, (readRow_wellFormed nMax t).trans hin⟩
  | write off w wstrb =>
    obtain rfl : t.offset = off := ht
    by_cases hs : wstrb = fullStrobe
    · subst hs
      rw [decodeBus_write_offset hin, if_neg (not_not.mpr rfl)]
      exact ⟨encode_writeRow w t, (writeRow_wellFormed nMax w t).trans hin⟩
    · simp only [Request.off] at ha hu
      rw [decodeBus_of_partialStrobe ha hu hs]
      simp [encode, Instr.wellFormed, ha, hu, hs]

theorem encode_decodeBus (nMax : Nat) (r : Request) :
    encode (decodeBus nMax r) = .bus r ∧ (decodeBus nMax r).wellFormed nMax = true := by
  cases ha : aligned r.off with
  | false => simp [decodeBus_of_misaligned ha, encode, Instr.wellFormed, ha]
  | true =>
    cases hu : inUnmappedSet nMax r.off with
    | false => exact encode_decodeBus_of_mapped ha hu
    | true => simp [decodeBus_of_unmapped ha hu, encode, Instr.wellFormed, ha, hu]

/-- Settles O2: a command word picks one of the five command rows; a bus request is refused and kept whole, or has the
offset of a place, whose row it is. -/
theorem encodeInvertsDecode : Obligations.EncodeInvertsDecode := by
  intro nMax busy t
  cases t with
  | cmd w => exact ⟨encode_decodeCmd busy w, decodeCmd_wellFormed nMax busy w, Machine.decodeCmd_applies busy w⟩
  | bus r =>
    obtain ⟨he, hwf⟩ := encode_decodeBus nMax r
    exact ⟨he, hwf, Machine.decodeBus_applies nMax busy r⟩

/-! ## Bytes and numbers (R65) -/

@[simp] theorem length_leBytes (n : Nat) : ∀ v, (leBytes n v).length = n := by
  induction n with
  | zero => exact fun _ => rfl
  | succ n ih => exact fun v => congrArg (· + 1) (ih (v / 256))

theorem leNat_leBytes (n : Nat) : ∀ v, leNat (leBytes n v) = v % 256 ^ n := by
  induction n with
  | zero => exact fun v => (Nat.mod_one v).symm
  | succ n ih =>
    intro v
    rw [leBytes, leNat, ih, Nat.pow_succ', Nat.mod_mul, BitVec.toNat_ofNat]

theorem ofNat_leNat_leBytes (n : Nat) (v : BitVec (8 * n)) : BitVec.ofNat (8 * n) (leNat (leBytes n v.toNat)) = v := by
  have hv : v.toNat < 256 ^ n := by
    have hpow : 256 ^ n = 2 ^ (8 * n) := (Nat.pow_mul 2 8 n).symm
    exact hpow ▸ v.isLt
  rw [leNat_leBytes, Nat.mod_eq_of_lt hv, BitVec.ofNat_toNat, BitVec.setWidth_eq]

/-! ## The eight bytes of a bus request (the layout of log 5)

The fields of the layout are read from its value as a number. -/

theorem packBus_read_toNat (off : Offset) : (packBus (.read off)).toNat = off.toNat := by
  simp only [packBus, BitVec.toNat_append]
  simp

theorem packBus_write_toNat (off : Offset) (w : Word) (wstrb : Strobe) :
    (packBus (.write off w wstrb)).toNat
      = off.toNat + 2 ^ 20 + 2 ^ 24 * w.toNat + 2 ^ 56 * (~~~wstrb).toNat := by
  have ho := off.isLt
  have hw := w.isLt
  simp only [packBus, BitVec.toNat_append]
  rw [← Nat.shiftLeft_add_eq_or_of_lt (by omega), ← Nat.shiftLeft_add_eq_or_of_lt (by omega),
    ← Nat.shiftLeft_add_eq_or_of_lt (by omega), ← Nat.shiftLeft_add_eq_or_of_lt (by omega),
    ← Nat.shiftLeft_add_eq_or_of_lt (by omega)]
  simp only [Nat.shiftLeft_eq, BitVec.toNat_ofNat]
  omega

theorem extractLsb'_eq_of_toNat {n start len : Nat} {v : BitVec n} {x : BitVec len}
    (h : v.toNat / 2 ^ start % 2 ^ len = x.toNat) : v.extractLsb' start len = x := by
  apply BitVec.eq_of_toNat_eq
  rw [BitVec.extractLsb'_toNat, Nat.shiftRight_eq_div_pow, h]

theorem extractLsb'_eq_zero_of_toNat {n start len : Nat} {v : BitVec n} (h : v.toNat / 2 ^ start % 2 ^ len = 0) :
    v.extractLsb' start len = 0#len :=
  extractLsb'_eq_of_toNat (h.trans BitVec.toNat_zero.symm)

theorem getLsbD_eq_decide {n : Nat} (v : BitVec n) (k : Nat) : v.getLsbD k = decide (v.toNat / 2 ^ k % 2 = 1) := by
  rw [BitVec.getLsbD, Nat.testBit_eq_decide_div_mod_eq]

theorem unpackBus_packBus (r : Request) : unpackBus (packBus r) = .ok r := by
  cases r with
  | read off =>
    have ho := off.isLt
    have hv := packBus_read_toNat off
    generalize packBus (.read off) = v at hv
    have hwrite : v.getLsbD 20 = false := by
      rw [getLsbD_eq_decide, decide_eq_false_iff_not]
      omega
    have hoff : v.extractLsb' 0 20 = off := extractLsb'_eq_of_toNat (by omega)
    have hgap : v.extractLsb' 21 3 = 0#3 := extractLsb'_eq_zero_of_toNat (by omega)
    have htop : v.extractLsb' 60 4 = 0#4 := extractLsb'_eq_zero_of_toNat (by omega)
    have hdata : v.extractLsb' 24 32 = 0#32 := extractLsb'_eq_zero_of_toNat (by omega)
    have hstrb : v.extractLsb' 56 4 = 0#4 := extractLsb'_eq_zero_of_toNat (by omega)
    simp only [unpackBus, hwrite, hoff, hgap, htop, hdata, hstrb]
    simp
  | write off w wstrb =>
    have ho := off.isLt
    have hw := w.isLt
    have hs := (~~~wstrb).isLt
    have hv := packBus_write_toNat off w wstrb
    generalize packBus (.write off w wstrb) = v at hv
    have hwrite : v.getLsbD 20 = true := by
      rw [getLsbD_eq_decide, decide_eq_true_eq]
      omega
    have hoff : v.extractLsb' 0 20 = off := extractLsb'_eq_of_toNat (by omega)
    have hgap : v.extractLsb' 21 3 = 0#3 := extractLsb'_eq_zero_of_toNat (by omega)
    have htop : v.extractLsb' 60 4 = 0#4 := extractLsb'_eq_zero_of_toNat (by omega)
    have hdata : v.extractLsb' 24 32 = w := extractLsb'_eq_of_toNat (by omega)
    have hstrb : v.extractLsb' 56 4 = ~~~wstrb := extractLsb'_eq_of_toNat (by omega)
    simp only [unpackBus, hwrite, hoff, hgap, htop, hdata, hstrb]
    simp

theorem transactionOfBytes_transactionBytes (t : Transaction) : transactionOfBytes (transactionBytes t) = .ok t := by
  cases t with
  | cmd w =>
    have hw : BitVec.ofNat 32 (leNat (leBytes 4 w.toNat)) = w := ofNat_leNat_leBytes 4 w
    simp [transactionOfBytes, transactionBytes, hw]
  | bus r =>
    have hr : BitVec.ofNat 64 (leNat (leBytes 8 (packBus r).toNat)) = packBus r := ofNat_leNat_leBytes 8 (packBus r)
    simp [transactionOfBytes, transactionBytes, hr, unpackBus_packBus]

/-- Settles O4: the bytes of a transaction are read back as that transaction. -/
theorem transactionBytesRoundTrip : Obligations.TransactionBytesRoundTrip := by
  intro nMax busy t
  rw [decodeBytes, transactionOfBytes_transactionBytes]

/-- Settles O5: nine closed words, run through the decoder. -/
theorem printedKeysDecode : Obligations.PrintedKeysDecode := by
  unfold Obligations.PrintedKeysDecode
  decide

/-- Settles O7: the step's arm for a transaction. -/
theorem stepRunsTheDecodedTransaction : Obligations.StepRunsTheDecodedTransaction :=
  fun _ _ _ hs => Machine.step_of_schedule_transaction hs

end Sys2Proof

/-! # What the host reads and writes (40_host_access.md R100 to R123) -/

namespace Sys2Proof.Machine

/-! ## The order of the checks (R100) -/

/-- Settles O3: an aligned offset outside the unmapped set is a place's offset, and its row is decoded there. -/
theorem requestsDecodeInCheckOrder : Obligations.RequestsDecodeInCheckOrder := by
  intro nMax r
  refine ⟨decodeBus_of_misaligned, decodeBus_of_unmapped, fun ha hu => ?_⟩
  obtain ⟨t, ht, hin⟩ := exists_target_of_mapped ha hu
  refine ⟨t, ht, ?_, ?_⟩
  · rintro i (rfl | rfl)
    · exact of_decide_eq_true hin
    · exact of_decide_eq_true hin
  · cases r with
    | read off =>
      obtain rfl : t.offset = off := ht
      exact decodeBus_read_offset hin
    | write off w wstrb =>
      obtain rfl : t.offset = off := ht
      exact (decodeBus_write_offset hin w wstrb).trans (ite_not ..)

/-! ## Refused transactions (R100 to R104) -/

theorem readSlot_okay_or_refuses (i : SymIndex) (v : Word) (s : State) :
    (∃ v', (readSlot i v s).response = some (.read v' .okay)) ∨ readSlot i v s = refuseRead s := by
  unfold readSlot
  split
  · exact .inl ⟨v, rfl⟩
  · exact .inr rfl

/-- A row answers `OKAY`, or refuses: the port's answer is then all it writes. -/
theorem exec_okay_or_refuses {i : Instr} {s t : State} (h : exec i s = .next t) :
    (t.response = some (.write .okay) ∨ ∃ v, t.response = some (.read v .okay))
      ∨ t = refuseRead s ∨ t = refuseWrite s := by
  cases i <;> cases h
  case rdLen slot | rdCode slot => exact (readSlot_okay_or_refuses slot _ s).imp .inr .inl
  case wrLen slot w =>
    split
    · exact .inl (.inl rfl)
    · exact .inr (.inr rfl)
  case misaligned r | unmapped r =>
    cases r
    · exact .inr (.inl rfl)
    · exact .inr (.inr rfl)
  case rdId | rdParam | rdCmd | rdStatus | rdNsym | rdMaxbits | rdIrqEn | rdErrInfo | rdBlCount | rdNextCode =>
    exact .inl (.inr ⟨_, rfl⟩)
  case nop | assign | clrstat | illegalCmd | cmdWhileBusy | wrCmd | wrNsym | wrMaxbits | wrIrqEn =>
    exact .inl (.inl rfl)
  case wrId | wrParam | wrStatus | wrErrInfo | wrBlCount | wrNextCode | wrCode | partialStrobe =>
    exact .inr (.inr rfl)

/-- Settles O24: a row that does not answer `OKAY` only refuses. -/
theorem errorAnswerMeansNoChange : Obligations.ErrorAnswerMeansNoChange := by
  intro i s t h
  obtain (hw | ⟨v, hr⟩) | rfl | rfl := exec_okay_or_refuses h
  · simp [hw]
  · simp [hr]
  · exact ⟨fun v hv => by cases hv; exact ⟨rfl, rfl⟩, nofun⟩
  · exact ⟨nofun, fun _ => rfl⟩

/-- A request that fails one of the checks of R100 decodes to a row that refuses it. -/
theorem exec_decodeBus_of_refused {nMax : Nat} {r : Request}
    (h : aligned r.off = false ∨ inUnmappedSet nMax r.off = true
      ∨ ∃ off w wstrb, r = .write off w wstrb ∧ wstrb ≠ fullStrobe) (s : State) :
    exec (decodeBus nMax r) s = .next (refuseRequest r s) := by
  cases ha : aligned r.off with
  | false =>
    rw [decodeBus_of_misaligned ha]
    rfl
  | true =>
    cases hu : inUnmappedSet nMax r.off with
    | true =>
      rw [decodeBus_of_unmapped ha hu]
      rfl
    | false =>
      obtain ⟨off, w, wstrb, rfl, hs⟩ := (h.resolve_left (by simp [ha])).resolve_left (by simp [hu])
      have hrow : decodeBus nMax (.write off w wstrb) = .partialStrobe off w wstrb :=
        decodeBus_of_partialStrobe ha hu hs
      rw [hrow]
      rfl

/-- Settles O23: whatever check fails, the decoded row refuses the request. -/
theorem refusedRequestsChangeNothing : Obligations.RefusedRequestsChangeNothing := by
  intro s r rest hs h
  rw [step_of_schedule_transaction hs]
  refine (exec_decodeBus_of_refused h { s with schedule := rest }).trans ?_
  cases r <;> rfl

/-- Settles O22: the refused rows put their answer on the port and do nothing else. -/
theorem refusedRowsAnswerError : Obligations.RefusedRowsAnswerError :=
  fun _ _ _ _ => ⟨rfl, rfl, rfl, rfl, rfl⟩

/-- Settles O21: each of the seven rows refuses its write. -/
theorem readOnlyWritesAreRefused : Obligations.ReadOnlyWritesAreRefused := by
  intro s L i w j hj
  simp only [List.mem_cons, List.not_mem_nil, or_false] at hj
  obtain rfl | rfl | rfl | rfl | rfl | rfl | rfl := hj <;> rfl

/-! ## What a read of each place shows (R105 to R121) -/

/-- The data a read of a place answers, when the place is there. -/
def shownWord (s : State) : Target → Word
  | .id => idWord
  | .param => paramWord s.cfg
  | .cmd => 0#32
  | .status => statusWord s
  | .nsym => s.nsym
  | .maxbits => s.maxbits
  | .irqEn => irqEnReadData s.irqEn
  | .errInfo => errInfoWord s
  | .blCount L => gatedTable s.blCount L s
  | .nextCode L => gatedTable s.nextCode L s
  | .len i => lenReadData (s.lenMem.read i.toNat)
  | .code i => gatedCode i s

theorem exec_readRow_of_inBounds {s : State} {p : Target} (h : p.inBounds s.cfg.nMax = true) :
    exec (readRow p) s = .next (answerRead (shownWord s p) s) := by
  cases p
  case len i => exact congrArg _ (if_pos (of_decide_eq_true h))
  case code i => exact congrArg _ (if_pos (of_decide_eq_true h))
  all_goals rfl

theorem exec_readRow_of_not_inBounds {s : State} {p : Target} (h : p.inBounds s.cfg.nMax = false) :
    exec (readRow p) s = .next (refuseRead s) := by
  cases p
  case len i => exact congrArg _ (if_neg (of_decide_eq_false h))
  case code i => exact congrArg _ (if_neg (of_decide_eq_false h))
  all_goals cases h

/-- Settles O10: the three words are constants and the parameter `N_MAX`. -/
theorem constantReadsAnswer : Obligations.ConstantReadsAnswer :=
  fun _ => ⟨rfl, rfl, rfl⟩

theorem statusWord_wign (s : State) : (statusWord s).getLsbD 3 = s.wign := by
  simp only [statusWord, BitVec.getLsbD_append]
  simp

/-- `STATUS` as a number, its fields at their weights. -/
theorem statusWord_toNat (s : State) :
    (statusWord s).toNat
      = s.busy.toNat + 2 * s.done.toNat + 4 * s.err.toNat + 8 * s.wign.toNat + 256 * s.errCode.toNat := by
  have hbusy := s.busy.toNat_lt
  have hdone := s.done.toNat_lt
  have herr := s.err.toNat_lt
  have hwign := s.wign.toNat_lt
  simp only [statusWord, BitVec.toNat_append, BitVec.toNat_ofBool]
  rw [← Nat.shiftLeft_add_eq_or_of_lt (by omega), ← Nat.shiftLeft_add_eq_or_of_lt (by omega),
    ← Nat.shiftLeft_add_eq_or_of_lt (by omega), ← Nat.shiftLeft_add_eq_or_of_lt (by omega),
    ← Nat.shiftLeft_add_eq_or_of_lt (by decide), ← Nat.shiftLeft_add_eq_or_of_lt (by omega)]
  simp only [Nat.shiftLeft_eq, BitVec.toNat_ofNat]
  omega

/-- Settles O11: the word is the sum of its fields at their weights. -/
theorem statusReadShowsItsFields : Obligations.StatusReadShowsItsFields := by
  intro s
  have hbusy := s.busy.toNat_lt
  have hdone := s.done.toNat_lt
  have herr := s.err.toNat_lt
  have hwign := s.wign.toNat_lt
  have hcode := s.errCode.isLt
  have hword := statusWord_toNat s
  exact ⟨statusWord s, rfl, statusWord_busy s, statusWord_done s, statusWord_err s, statusWord_wign s,
    extractLsb'_eq_zero_of_toNat (by omega), extractLsb'_eq_of_toNat (by omega),
    extractLsb'_eq_zero_of_toNat (by omega)⟩

/-- `ERR_INFO` as a number, its fields at their weights. -/
theorem errInfoWord_toNat (s : State) : (errInfoWord s).toNat = s.errIndex.toNat + 2 ^ 16 * s.errLen.toNat := by
  simp only [errInfoWord, BitVec.toNat_append]
  rw [← Nat.shiftLeft_add_eq_or_of_lt s.errLen.isLt, ← Nat.shiftLeft_add_eq_or_of_lt s.errIndex.isLt]
  simp only [Nat.shiftLeft_eq, BitVec.toNat_ofNat]
  omega

/-- Settles O12: the word is the sum of its fields at their weights. -/
theorem errInfoReadShowsItsFields : Obligations.ErrInfoReadShowsItsFields := by
  intro s
  have hindex := s.errIndex.isLt
  have hlen := s.errLen.isLt
  have hword := errInfoWord_toNat s
  exact ⟨errInfoWord s, rfl, extractLsb'_eq_of_toNat (by omega), extractLsb'_eq_of_toNat (by omega),
    extractLsb'_eq_zero_of_toNat (by omega)⟩

theorem irqEnReadData_eq (en : Bool) : irqEnReadData en = if en then 1#32 else 0#32 := by
  cases en <;> rfl

/-- Settles O13: `NSYM` and `MAXBITS` are answered as they stand, `EN` as bit 0. -/
theorem configurationReadsAnswer : Obligations.ConfigurationReadsAnswer :=
  fun s => ⟨rfl, rfl, irqEnReadData_eq s.irqEn ▸ exec_readRow_of_inBounds (p := .irqEn) rfl⟩

/-- Settles O15: zero-extension keeps the entry's value. -/
theorem lenReadAnswers : Obligations.LenReadAnswers :=
  fun s i hi => ⟨lenReadData (s.lenMem.read i.toNat), exec_readRow_of_inBounds (p := .len i) (decide_eq_true hi),
    BitVec.toNat_setWidth_of_le (by decide)⟩

/-! ## The gates of the results (R117, R118, R121) -/

theorem gatedTable_eq_zero {s : State} {regs : Vector Word Config.nl} {L : LenIndex}
    (h : s.done = true → regs.getD L.toNat 0#32 = 0#32) : gatedTable regs L s = 0#32 := by
  unfold gatedTable
  split
  · exact h ‹_›
  · rfl

/-- `next_code` after the loop of R166: the starting code of R164 plus the count. -/
theorem canonAssign_nextCode_eq {nMax : Nat} {mem : Memory 8} {nsym maxbits : Word} {codes : List Nat} {bl nc : LenTable}
    (h : canonAssign nMax mem nsym maxbits = .ok codes bl nc) {L : Nat} (h1 : 1 ≤ L) (hL : L < Config.nl) :
    nc.entry L = (startCodes (lengthCounts (lengthsOf mem nsym.toNat)) maxbits.toNat).entry L + bl.entry L := by
  obtain ⟨-, -, -, -, rfl, rfl⟩ := canonAssign_ok h
  rw [assignCodes_next_entry _ h1 hL, lengthCounts_entry _ h1 hL]

/-- Settles O14: the gate is the row's own; the registers of a DONE state hold the entries of the function's tables. -/
theorem tableReadsAreGated : Obligations.TableReadsAreGated := by
  intro s L
  refine ⟨rfl, rfl, fun hinv => ?_, fun hinv hdone h1 _ => ?_⟩
  · have hzero : gatedTable s.blCount 0#4 s = 0#32 := gatedTable_eq_zero fun hdone =>
      ((resultRegistersHoldCountsAndNextCodes s 0#4 hinv hdone).2 (by simp)).1
    refine (exec_readRow_of_inBounds (p := .blCount 0#4) rfl).trans ?_
    rw [shownWord, hzero]
    rfl
  · obtain ⟨codes, bl, nc, hr, -, hregs⟩ := hinv.results hdone
    obtain ⟨hbl, hnc⟩ := hregs L
    rw [hbl, hnc]
    exact canonAssign_nextCode_eq hr h1 L.isLt

/-- An unused symbol's code is 0 (C3). -/
theorem canonAssign_code_of_length_zero {nMax : Nat} {mem : Memory 8} {nsym maxbits : Word} {codes : List Nat}
    {bl nc : LenTable} (h : canonAssign nMax mem nsym maxbits = .ok codes bl nc) {i : Nat} (hi : i < nsym.toNat)
    (h0 : mem.read i = 0#8) : codes.getD i 0 = 0 := by
  obtain ⟨-, hmb, hlens, rfl, -, -⟩ := canonAssign_ok h
  have hnl : ∀ len ∈ lengthsOf mem nsym.toNat, len < Config.nl := fun len hm =>
    Nat.lt_of_le_of_lt (hlens len hm) (show maxbits.toNat < 16 by omega)
  rw [assignCodes_code hnl, lengthsOf_getD _ _ _ hi, h0]
  rfl

theorem gatedCode_of_length_zero {s : State} (hinv : s.Inv) {i : SymIndex} (h0 : s.lenMem.read i.toNat = 0#8) :
    gatedCode i s = 0#32 := by
  unfold gatedCode
  split
  · rename_i hg
    obtain ⟨hdone, hi⟩ := hg
    obtain ⟨codes, bl, nc, hr, hcodes, -⟩ := hinv.results hdone
    exact BitVec.eq_of_toNat_eq ((hcodes _ hi).trans (canonAssign_code_of_length_zero hr hi h0))
  · rfl

/-- Settles O16: below `N_MAX` the row answers through the gate, and a symbol of length 0 has the code 0 behind it. -/
theorem codeReadIsGated : Obligations.CodeReadIsGated := by
  intro s i hi
  have hread : exec (.rdCode i) s = .next (answerRead (gatedCode i s) s) :=
    exec_readRow_of_inBounds (p := .code i) (decide_eq_true hi)
  refine ⟨hread, fun hinv h0 => hread.trans ?_⟩
  rw [gatedCode_of_length_zero hinv h0]
  rfl

/-! ## Reads depend on the control fields and the inputs only (R121, C4) -/

section SameControl

variable {s t : State}

/-- The inputs fix what the result registers hold: `CanonAssign` is a function. -/
theorem ResultsHold.agree (hs : ResultsHold s) (ht : ResultsHold t) (h : SameControl s t) :
    (∀ i, i < s.nsym.toNat → s.codeMem.read i = t.codeMem.read i)
      ∧ ∀ L : LenIndex, s.blCount.getD L.toNat 0#32 = t.blCount.getD L.toNat 0#32
          ∧ s.nextCode.getD L.toNat 0#32 = t.nextCode.getD L.toNat 0#32 := by
  obtain ⟨hcfg, hnsym, hmaxbits, -, -, -, -, -, -, -, -, hlen⟩ := h
  obtain ⟨codes, bl, nc, hr, hcodes, hregs⟩ := hs
  obtain ⟨codes', bl', nc', hr', hcodes', hregs'⟩ := ht
  rw [← hcfg, ← hlen, ← hnsym, ← hmaxbits] at hr'
  rw [← hnsym] at hcodes'
  cases hr.symm.trans hr'
  refine ⟨fun i hi => BitVec.eq_of_toNat_eq ((hcodes i hi).trans (hcodes' i hi).symm), fun L => ?_⟩
  obtain ⟨hbl, hnc⟩ := hregs L
  obtain ⟨hbl', hnc'⟩ := hregs' L
  exact ⟨BitVec.eq_of_toNat_eq (hbl.trans hbl'.symm), BitVec.eq_of_toNat_eq (hnc.trans hnc'.symm)⟩

theorem gatedTable_congr {regs regs' : Vector Word Config.nl} {L : LenIndex} (hdone : s.done = t.done)
    (h : s.done = true → regs.getD L.toNat 0#32 = regs'.getD L.toNat 0#32) :
    gatedTable regs L s = gatedTable regs' L t := by
  unfold gatedTable
  rw [← hdone]
  exact ite_congr rfl h fun _ => rfl

theorem gatedCode_congr {i : SymIndex} (hdone : s.done = t.done) (hnsym : s.nsym = t.nsym)
    (h : s.done = true → i.toNat < s.nsym.toNat → s.codeMem.read i.toNat = t.codeMem.read i.toNat) :
    gatedCode i s = gatedCode i t := by
  unfold gatedCode
  rw [← hdone, ← hnsym]
  exact ite_congr rfl (fun hg => h hg.1 hg.2) fun _ => rfl

theorem shownWord_eq_of_sameControl (hs : s.Inv) (ht : t.Inv) (h : SameControl s t) (p : Target) :
    shownWord s p = shownWord t p := by
  obtain ⟨hcfg, hnsym, hmaxbits, hirq, hbusy, hdone, herr, hwign, hcode, hindex, hlen, hmem⟩ := id h
  have hagree (hd : s.done = true) := (hs.results hd).agree (ht.results (hdone ▸ hd)) h
  cases p with
  | id => rfl
  | param => exact congrArg paramWord hcfg
  | cmd => rfl
  | status => simp only [shownWord, statusWord, hbusy, hdone, herr, hwign, hcode]
  | nsym => exact hnsym
  | maxbits => exact hmaxbits
  | irqEn => exact congrArg irqEnReadData hirq
  | errInfo => simp only [shownWord, errInfoWord, hindex, hlen]
  | blCount L => exact gatedTable_congr hdone fun hd => ((hagree hd).2 L).1
  | nextCode L => exact gatedTable_congr hdone fun hd => ((hagree hd).2 L).2
  | len i => simp only [shownWord, hmem]
  | code i => exact gatedCode_congr hdone hnsym fun hd hi => (hagree hd).1 _ hi

end SameControl

/-- A read runs the read row of a place, or is refused for its offset. -/
theorem isRead_cases {i : Instr} (h : isRead i = true) :
    (∃ p, i = readRow p) ∨ ∃ off, i = .misaligned (.read off) ∨ i = .unmapped (.read off) := by
  cases i
  case rdId => exact .inl ⟨.id, rfl⟩
  case rdParam => exact .inl ⟨.param, rfl⟩
  case rdCmd => exact .inl ⟨.cmd, rfl⟩
  case rdStatus => exact .inl ⟨.status, rfl⟩
  case rdNsym => exact .inl ⟨.nsym, rfl⟩
  case rdMaxbits => exact .inl ⟨.maxbits, rfl⟩
  case rdIrqEn => exact .inl ⟨.irqEn, rfl⟩
  case rdErrInfo => exact .inl ⟨.errInfo, rfl⟩
  case rdBlCount L => exact .inl ⟨.blCount L, rfl⟩
  case rdNextCode L => exact .inl ⟨.nextCode L, rfl⟩
  case rdLen slot => exact .inl ⟨.len slot, rfl⟩
  case rdCode slot => exact .inl ⟨.code slot, rfl⟩
  case misaligned r =>
    cases r with
    | read off => exact .inr ⟨off, .inl rfl⟩
    | write off w wstrb => cases h
  case unmapped r =>
    cases r with
    | read off => exact .inr ⟨off, .inr rfl⟩
    | write off w wstrb => cases h
  all_goals cases h

/-- Settles O53: the places show the same words in both states, and every other read is refused in both. -/
theorem readsDependOnlyOnCurrentInputs : Obligations.ReadsDependOnlyOnCurrentInputs := by
  intro s t s' t' i hs ht hst hi hs' ht'
  obtain ⟨p, rfl⟩ | ⟨off, rfl | rfl⟩ := isRead_cases hi
  · have hshown := shownWord_eq_of_sameControl hs ht hst p
    obtain ⟨hcfg, -⟩ := hst
    cases hp : p.inBounds s.cfg.nMax with
    | true =>
      cases (exec_readRow_of_inBounds hp).symm.trans hs'
      cases (exec_readRow_of_inBounds (hcfg ▸ hp)).symm.trans ht'
      exact congrArg (fun v => some (Response.read v .okay)) hshown
    | false =>
      cases (exec_readRow_of_not_inBounds hp).symm.trans hs'
      cases (exec_readRow_of_not_inBounds (hcfg ▸ hp)).symm.trans ht'
      rfl
  · cases hs'
    cases ht'
    rfl
  · cases hs'
    cases ht'
    rfl

/-! ## Writes (R108, R111, R113, R115, R120) -/

theorem writeInput_of_busy {stored s : State} (h : s.busy = true) : writeInput stored s = ignoredWrite s := if_pos h

theorem writeInput_of_not_busy {stored s : State} (h : s.busy = false) : writeInput stored s = inputWritten stored :=
  if_neg (by simp [h])

theorem exec_wrNsym (w : Word) (s : State) :
    exec (.wrNsym w) s = .next (answerWrite (writeInput { s with nsym := w } s)) := rfl

theorem exec_wrMaxbits (w : Word) (s : State) :
    exec (.wrMaxbits w) s = .next (answerWrite (writeInput { s with maxbits := w } s)) := rfl

theorem exec_wrLen {s : State} {i : SymIndex} (hi : i.toNat < s.cfg.nMax) (w : Word) :
    exec (.wrLen i w) s
      = .next (answerWrite (writeInput { s with lenMem := s.lenMem.write i.toNat (saturateLen w) } s)) :=
  congrArg _ (if_pos hi)

/-- Settles O18: an input write stores while not BUSY and is ignored while BUSY. -/
theorem inputRegisterWrites : Obligations.InputRegisterWrites := by
  intro s w
  rw [exec_wrNsym, exec_wrMaxbits]
  refine ⟨fun hb => ?_, fun hb => ?_⟩
  · rw [writeInput_of_not_busy hb, writeInput_of_not_busy hb]
    exact ⟨rfl, rfl⟩
  · rw [writeInput_of_busy hb, writeInput_of_busy hb]
    exact ⟨rfl, rfl⟩

theorem saturateLen_toNat (w : Word) : (saturateLen w).toNat = min w.toNat 255 := by
  unfold saturateLen
  split
  · rw [BitVec.extractLsb'_toNat, Nat.shiftRight_zero]
    omega
  · rw [BitVec.toNat_ofNat]
    omega

/-- Settles O19: the row writes the saturated length at its own index of `LEN_MEM`. -/
theorem lenWriteStoresSaturated : Obligations.LenWriteStoresSaturated := by
  intro s i w hwf hi
  refine ⟨fun hb => ?_, fun hb => ⟨s.lenMem.write i.toNat (saturateLen w), ?_, ?_, ?_, fun j hj => ?_⟩⟩
  · rw [exec_wrLen hi, writeInput_of_busy hb]
    rfl
  · rw [exec_wrLen hi, writeInput_of_not_busy hb]
    rfl
  · exact Memory.write_wf _ _ _ hwf
  · rw [Memory.read_write_same _ _ _ hwf, saturateLen_toNat]
  · exact Memory.read_write_other _ _ _ _ hwf hj

/-- Settles O20: the row writes `EN` alone, and `irq` is computed from the state. -/
theorem irqEnWriteStoresBitZero : Obligations.IrqEnWriteStoresBitZero :=
  fun _ _ => ⟨_, rfl, rfl, rfl⟩

/-- Settles O25: the two transactions decode to `WR_CMD` and to the command row, which do the same. -/
theorem cmdWriteRunsItsCommandRow : Obligations.CmdWriteRunsItsCommandRow := by
  intro s w rest
  refine ⟨⟨answerWrite (command w s), rfl, exec_decodeCmd w s, rfl⟩, ?_⟩
  rw [step_of_schedule_transaction rfl, step_of_schedule_transaction rfl]
  exact (congrArg (exec · { s with schedule := rest }) (decode_writeOf (t := .cmd) rfl)).trans
    (exec_decodeCmd w { s with schedule := rest }).symm

end Sys2Proof.Machine

/-! # The command rows (41_commands.md R140 to R146) -/

namespace Sys2Proof.Machine

/-! ## A command row while not BUSY and while BUSY (R140, R141) -/

section Command

variable {s : State} (w : Word)

theorem runCommand_of_not_busy (hb : s.busy = false) (body : State → State) : runCommand w body s = body s :=
  if_neg (by simp [hb])

theorem runCommand_of_busy (hb : s.busy = true) (body : State → State) : runCommand w body s = busyCommand w s :=
  if_pos hb

theorem command_of_busy (hb : s.busy = true) : command w s = busyCommand w s := if_pos hb

theorem busyCommand_zero (s : State) : busyCommand 0#32 s = s := if_neg (by simp)

theorem busyCommand_eq (s : State) : busyCommand w s = { s with wign := if w = 0#32 then s.wign else true } := by
  unfold busyCommand
  by_cases hw : w = 0#32 <;> simp [hw]

theorem next_answerWrite_congr {t t' : State} (h : t = t') :
    (.next (answerWrite t) : Host.Outcome State Fault Refusal) = .next (answerWrite t') := by
  rw [h]

theorem exec_nop (s : State) : exec .nop s = .next (answerWrite s) := by
  have hrun : runCommand 0#32 commandNop s = s := by
    cases hb : s.busy with
    | false => exact runCommand_of_not_busy _ hb _
    | true => exact (runCommand_of_busy _ hb _).trans (busyCommand_zero s)
  exact next_answerWrite_congr hrun

theorem exec_assign (hb : s.busy = false) : exec .assign s = .next (answerWrite (commandAssign s)) :=
  next_answerWrite_congr (runCommand_of_not_busy _ hb _)

theorem exec_clrstat (hb : s.busy = false) : exec .clrstat s = .next (answerWrite (clearStatus s)) :=
  next_answerWrite_congr (runCommand_of_not_busy _ hb _)

theorem exec_illegalCmd (hb : s.busy = false) :
    exec (.illegalCmd w) s = .next (answerWrite (commandIllegal s)) :=
  next_answerWrite_congr (runCommand_of_not_busy w hb _)

theorem exec_cmdWhileBusy (hb : s.busy = true) : exec (.cmdWhileBusy w) s = .next (answerWrite (busyCommand w s)) :=
  next_answerWrite_congr (command_of_busy w hb)

theorem commandAssign_of_err (he : s.err = true) : commandAssign s = ignoredWrite s := if_pos he

theorem commandAssign_of_no_err (he : s.err = false) : commandAssign s = { s with done := false, busy := true } :=
  if_neg (by simp [he])

theorem commandIllegal_of_err (he : s.err = true) : commandIllegal s = ignoredWrite s := if_pos he

theorem commandIllegal_of_no_err (he : s.err = false) : commandIllegal s = raiseError .illegalCmd 0 0 s :=
  if_neg (by simp [he])

theorem rowOf_cmd (s : State) : rowOf s (.cmd w) = decodeCmd s.busy w := by
  unfold rowOf
  split
  · rename_i h
    exact absurd h (decodeCmd_ne_bus rfl)
  · rfl

end Command

/-- Settles O26: the body of `NOP` is empty, and while BUSY the word 0 is the one that does not set `WIGN`. -/
theorem nopChangesNothing : Obligations.NopChangesNothing := exec_nop

/-- Settles O28: while not BUSY the row runs `clearStatus`, which leaves BUSY, DONE and ERR all 0. -/
theorem clrstatClearsStatus : Obligations.ClrstatClearsStatus := by
  intro s hb
  refine ⟨_, exec_clrstat hb, rfl, ?_, ?_⟩
  · simp [visibleState, answerWrite, hb]
  · simp [irq, answerWrite]

/-- Settles O29: the row raises its error from `ERR = 0` and is ignored from `ERR = 1`; no other word is a command. -/
theorem illegalCommandRaisesOrIsIgnored : Obligations.IllegalCommandRaisesOrIsIgnored := by
  intro s w hb
  refine ⟨fun he => ?_, fun he => ?_, fun h0 h1 h2 => ?_⟩
  · rw [exec_illegalCmd w hb, commandIllegal_of_no_err he]
    rfl
  · rw [exec_illegalCmd w hb, commandIllegal_of_err he]
    rfl
  · rw [rowOf_cmd, hb]
    simp [decodeCmd, h0, h1, h2]

/-- Settles O30: while BUSY the dispatch gives every word to `busyCommand`. -/
theorem commandWhileBusyOnlySetsWign : Obligations.CommandWhileBusyOnlySetsWign := by
  intro s w hb
  refine ⟨?_, ?_⟩
  · rw [rowOf_cmd, hb]
    rfl
  · rw [exec_cmdWhileBusy w hb, busyCommand_eq]
    rfl

/-! ## Recomputing from unchanged inputs (R143, R174) -/

section Recompute

variable {s : State} {codes : List Nat} {bl nc : LenTable}

/-- Registers that hold the values of a table are its image. -/
theorem tableRegisters_eq_of_toNat {t : LenTable} {regs : Vector Word Config.nl}
    (h : ∀ L : LenIndex, (regs.getD L.toNat 0#32).toNat = t.entry L.toNat) : tableRegisters t = regs := by
  refine Vector.ext fun L hL => ?_
  have hget (v : Vector Word Config.nl) : v.getD L 0#32 = v[L] := by simp [Vector.getD, hL]
  have hidx : (BitVec.ofNat 4 L).toNat = L := Nat.mod_eq_of_lt hL
  have hreg := h (BitVec.ofNat 4 L)
  rw [hidx] at hreg
  rw [← hget, ← hget, tableRegisters_getD, ← hreg, BitVec.ofNat_toNat, BitVec.setWidth_eq]

/-- Storing codes a memory already holds changes nothing. -/
theorem storeCodes_eq_self {m : Memory 32} (hm : m.wf = true)
    (h : ∀ i, i < codes.length → (m.read i).toNat = codes.getD i 0) : storeCodes m 0 codes = m := by
  refine Memory.eq_of_read _ _ (storeCodes_wf codes m 0 hm) hm fun a => ?_
  rw [storeCodes_read codes m 0 a hm]
  split
  · rename_i ha
    rw [Nat.sub_zero, ← h a (by omega), BitVec.ofNat_toNat, BitVec.setWidth_eq]
  · rfl

/-- In a DONE state of the invariant the result registers are those a completion on the same inputs writes. -/
theorem State.Inv.commitSuccess_restarted (hinv : s.Inv) (hdone : s.done = true)
    (hr : canonAssign s.cfg.nMax s.lenMem s.nsym s.maxbits = .ok codes bl nc) :
    commitSuccess codes bl nc { s with done := false, busy := true } = s := by
  obtain ⟨codes', bl', nc', hr', hcodes, hregs⟩ := hinv.results hdone
  cases hr.symm.trans hr'
  have hmem : storeCodes s.codeMem 0 codes = s.codeMem :=
    storeCodes_eq_self hinv.codeWf fun i hi => hcodes i (canonAssign_codes_length hr ▸ hi)
  have hbl : tableRegisters bl = s.blCount := tableRegisters_eq_of_toNat fun L => (hregs L).1
  have hnc : tableRegisters nc = s.nextCode := tableRegisters_eq_of_toNat fun L => (hregs L).2
  change { s with codeMem := storeCodes s.codeMem 0 codes, blCount := tableRegisters bl,
                  nextCode := tableRegisters nc, busy := false, done := true } = s
  rw [hmem, hbl, hnc, ← (hinv.only_done hdone).1, ← hdone]

end Recompute

theorem canonAssign_nsym_zero (nMax : Nat) (mem : Memory 8) {maxbits : Word} (hmb : maxbits.toNat ≤ 15) :
    ∃ codes bl nc, canonAssign nMax mem 0#32 maxbits = .ok codes bl nc := by
  unfold canonAssign
  rw [if_neg (by simp), if_neg (show ¬ Config.mbMax < maxbits.toNat from Nat.not_lt.2 hmb)]
  exact ⟨_, _, _, rfl⟩

/-- The sequencer's turn after an accepted `ASSIGN` whose operation succeeds. -/
theorem sequencerTurn_after_assign {s t : State} (hb : s.busy = false) (he : s.err = false)
    (h : exec .assign s = .next t) {codes : List Nat} {bl nc : LenTable}
    (hr : canonAssign s.cfg.nMax s.lenMem s.nsym s.maxbits = .ok codes bl nc) :
    sequencerTurn t = answerWrite (commitSuccess codes bl nc { s with done := false, busy := true }) := by
  rw [exec_assign hb, commandAssign_of_no_err he] at h
  cases h
  rw [sequencerTurn_of_busy rfl]
  exact complete_of_ok hr

/-- Settles O27: the row starts an operation or is ignored; the completion that follows rewrites the results a DONE
state holds, and with no symbol it cannot fail. -/
theorem assignStartsOrIsRefused : Obligations.AssignStartsOrIsRefused := by
  intro s hb
  refine ⟨fun he => ?_, fun he => ?_, fun t hinv hdone h => ?_, fun t he hn hmb h => ?_⟩
  · rw [exec_assign hb, commandAssign_of_no_err he]
    rfl
  · rw [exec_assign hb, commandAssign_of_err he]
    rfl
  · obtain ⟨codes, bl, nc, hr, -⟩ := hinv.results hdone
    rw [sequencerTurn_after_assign hb (hinv.only_done hdone).2 h hr, hinv.commitSuccess_restarted hdone hr]
    rfl
  · obtain ⟨codes, bl, nc, hr⟩ := canonAssign_nsym_zero s.cfg.nMax s.lenMem hmb
    rw [sequencerTurn_after_assign hb he h (hn ▸ hr)]
    exact ⟨rfl, rfl, he⟩

/-! ## The table of visible-state transitions (R146) -/

section Visible

variable {s t : State} {i : Instr} {r : Response} {v : VisibleState}

theorem visibleState_eq_ite (hv : visibleState s ≠ .mixed) :
    visibleState s = if s.busy then .busy else if s.done then .done else if s.err then .error else .idle := by
  revert hv
  unfold visibleState
  cases s.busy <;> cases s.done <;> cases s.err <;> decide

theorem visibleState_eq_busy_iff (hv : visibleState s ≠ .mixed) : visibleState s = .busy ↔ s.busy = true := by
  rw [visibleState_eq_ite hv]
  split_ifs <;> simp_all

theorem visibleState_eq_error_iff (hv : visibleState s ≠ .mixed) : visibleState s = .error ↔ s.err = true := by
  obtain ⟨-, hbe, hde⟩ := (visibleState_ne_mixed_iff s).1 hv
  rw [visibleState_eq_ite hv]
  split_ifs <;> simp_all

theorem visibleState_idle_or_done (hb : s.busy = false) (he : s.err = false) :
    visibleState s = .idle ∨ visibleState s = .done := by
  unfold visibleState
  cases s.done <;> simp [hb, he]

theorem visibleState_inputWritten (hb : s.busy = false) (hv : visibleState s ≠ .mixed) :
    visibleState (inputWritten s) = if visibleState s = .done then .idle else visibleState s := by
  obtain ⟨-, -, hde⟩ := (visibleState_ne_mixed_iff s).1 hv
  cases hd : s.done <;> cases he : s.err <;> simp_all [visibleState]

/-! What the table says row by row, for the rows it does not tell apart. -/

theorem rowRun_rowRun (v : VisibleState) (i : Instr) : rowRun v (rowRun v i) = rowRun v i := by
  cases i
  case wrCmd w =>
    change rowRun v (decodeCmd (v == .busy) w) = _
    unfold rowRun
    split
    · rename_i h
      exact absurd h (decodeCmd_ne_bus rfl)
    · rfl
  all_goals rfl

theorem nextVisible_rowRun (v : VisibleState) (i : Instr) : nextVisible v (rowRun v i) = nextVisible v i := by
  simp only [nextVisible, rowRun_rowRun]

theorem setsWign_rowRun (v : VisibleState) (i : Instr) : setsWign v (rowRun v i) = setsWign v i := by
  simp only [setsWign, rowRun_rowRun]

theorem nextVisible_of_isInert (hi : isInert i = true) : nextVisible v i = v := by
  cases i
  case assign => cases hi
  case clrstat => cases hi
  case illegalCmd w => cases hi
  case wrCmd w => cases hi
  case wrNsym w => cases hi
  case wrMaxbits w => cases hi
  case wrLen slot w => cases hi
  all_goals rfl

theorem nextVisible_of_writesInput (hi : writesInput i = true) : nextVisible v i = if v = .done then .idle else v := by
  cases i
  case wrNsym w => rfl
  case wrMaxbits w => rfl
  case wrLen slot w => rfl
  all_goals cases hi

theorem setsWign_iff (hcmd : ∀ w, i ≠ .wrCmd w) :
    setsWign v i = true ↔ (v = .busy ∧ writesInput i = true) ∨ (∃ w, w ≠ 0#32 ∧ i = .cmdWhileBusy w)
      ∨ (v = .error ∧ (i = .assign ∨ ∃ w, i = .illegalCmd w)) := by
  cases i
  case wrCmd w => exact absurd rfl (hcmd w)
  all_goals simp [setsWign, rowRun, writesInput]

/-- `RowEffect` says of the visible state what R146's table says of it. -/
theorem RowEffect.visibleState_eq (he : RowEffect s i r t) (hv : visibleState s ≠ .mixed)
    (ha : i.applies s.busy = true) : visibleState t = nextVisible (visibleState s) i := by
  cases he with
  | inert hi en r => exact (nextVisible_of_isInert hi).symm
  | starts herr =>
    have hb : s.busy = false := by simpa [Instr.applies] using ha
    refine Eq.trans ?_ (if_pos (visibleState_idle_or_done hb herr)).symm
    simp [visibleState, herr]
  | clears =>
    have hb : s.busy = false := by simpa [Instr.applies] using ha
    change visibleState (clearStatus s) = .idle
    simp [visibleState, hb]
  | raises w herr =>
    have hb : s.busy = false := by simpa [Instr.applies] using ha
    refine Eq.trans ?_ (if_pos (visibleState_idle_or_done hb herr)).symm
    simp [visibleState, hb]
  | refusesAssign herr => exact (if_neg (by simp [(visibleState_eq_error_iff hv).2 herr])).symm
  | refusesIllegal w herr => exact (if_neg (by simp [(visibleState_eq_error_iff hv).2 herr])).symm
  | ignoresCommand w hw => rfl
  | ignoresInput hi hb =>
    rw [nextVisible_of_writesInput hi, if_neg (by simp [(visibleState_eq_busy_iff hv).2 hb])]
    rfl
  | writesNsym w hb => exact visibleState_inputWritten (s := { s with nsym := w }) hb hv
  | writesMaxbits w hb => exact visibleState_inputWritten (s := { s with maxbits := w }) hb hv
  | writesLen slot w hb =>
    exact visibleState_inputWritten (s := { s with lenMem := s.lenMem.write slot.toNat (saturateLen w) }) hb hv

/-- `RowEffect` says of `WIGN` what R146's table says of it. -/
theorem RowEffect.wign_eq (he : RowEffect s i r t) (hv : visibleState s ≠ .mixed) (hcmd : ∀ w, i ≠ .wrCmd w) :
    t.wign = if i = .clrstat then false else s.wign || setsWign (visibleState s) i := by
  cases hw : s.wign with
  | true =>
    have hc := he.wign_cleared hw
    split_ifs with hi
    · exact hc.2 hi
    · simpa [hi] using hc
  | false =>
    have hset : t.wign = setsWign (visibleState s) i := by
      rw [Bool.eq_iff_iff, he.wign_set hw, setsWign_iff hcmd, visibleState_eq_busy_iff hv, visibleState_eq_error_iff hv]
    split_ifs with hi
    · rw [hset, hi]
      rfl
    · rw [hset, Bool.false_or]

/-! ## The row a transaction of the table runs -/

theorem rowRun_wrCmd (hv : visibleState s ≠ .mixed) (w : Word) :
    rowRun (visibleState s) (.wrCmd w) = decodeCmd s.busy w := by
  have hb : (visibleState s == .busy) = s.busy := by
    rw [Bool.eq_iff_iff, beq_iff_eq, visibleState_eq_busy_iff hv]
  exact congrArg (decodeCmd · w) hb

theorem exec_rowRun (hv : visibleState s ≠ .mixed) (i : Instr) : exec (rowRun (visibleState s) i) s = exec i s := by
  cases i
  case wrCmd w =>
    rw [rowRun_wrCmd hv]
    exact exec_decodeCmd w s
  all_goals rfl

theorem rowRun_ne_wrCmd (v : VisibleState) (i : Instr) (w : Word) : rowRun v i ≠ .wrCmd w := by
  cases i
  case wrCmd w' => exact decodeCmd_ne_bus rfl
  all_goals nofun

theorem rowRun_applies (hv : visibleState s ≠ .mixed) (ha : i.applies s.busy = true) :
    (rowRun (visibleState s) i).applies s.busy = true := by
  cases i
  case wrCmd w =>
    rw [rowRun_wrCmd hv]
    exact decodeCmd_applies _ w
  all_goals exact ha

theorem rowRun_wrLen_lt {nMax : Nat} (hwf : i.wellFormed nMax = true) {slot : SymIndex} {w : Word}
    (h : rowRun v i = .wrLen slot w) : slot.toNat < nMax := by
  cases i
  case wrLen slot' w' =>
    cases h
    simpa [Instr.wellFormed] using hwf
  case wrCmd w' => exact absurd h (decodeCmd_ne_bus rfl)
  all_goals cases h

/-- R146's table for a transaction: the row it runs has a `RowEffect`. -/
theorem exec_visible (hv : visibleState s ≠ .mixed) (hwf : i.wellFormed s.cfg.nMax = true)
    (ha : i.applies s.busy = true) (h : exec i s = .next t) :
    visibleState t = nextVisible (visibleState s) i
      ∧ t.wign = if rowRun (visibleState s) i = .clrstat then false else s.wign || setsWign (visibleState s) i := by
  rw [← exec_rowRun hv] at h
  have harow := rowRun_applies hv ha
  have hcmd := rowRun_ne_wrCmd (visibleState s) i
  obtain ⟨r, s', rfl, he⟩ := exec_row h harow (fun _ _ => rowRun_wrLen_lt hwf) hcmd
  have hvis : visibleState s' = nextVisible (visibleState s) (rowRun (visibleState s) i) := he.visibleState_eq hv harow
  rw [nextVisible_rowRun] at hvis
  refine ⟨hvis, ?_⟩
  rw [respond_wign, he.wign_eq hv hcmd, setsWign_rowRun]

/-! ## The completion step of the table -/

theorem visibleState_complete_of_ok (he : s.err = false) {codes : List Nat} {bl nc : LenTable}
    (hc : canonAssign s.cfg.nMax s.lenMem s.nsym s.maxbits = .ok codes bl nc) : visibleState (complete s) = .done := by
  rw [complete_of_ok hc]
  simp [visibleState, he]

theorem visibleState_complete_of_err {cause : ErrCause} {index len : Nat}
    (hc : canonAssign s.cfg.nMax s.lenMem s.nsym s.maxbits = .err cause index len) :
    visibleState (complete s) = .error := by
  rw [complete_of_err hc]
  simp [visibleState]

end Visible

/-- Settles O31: a transaction moves as its row does, the completion step by its outcome; reset clears every flag. -/
theorem visibleStateTransitions : Obligations.VisibleStateTransitions := by
  refine ⟨fun i s t => exec_visible, fun s h => ?_, fun s => rfl⟩
  have hv : visibleState s ≠ .mixed := by simp [h]
  have hb : s.busy = true := (visibleState_eq_busy_iff hv).1 h
  obtain ⟨-, hbe, -⟩ := (visibleState_ne_mixed_iff s).1 hv
  have he : s.err = false := by simpa [hb] using hbe
  rw [sequencerTurn_of_busy hb]
  cases hc : canonAssign s.cfg.nMax s.lenMem s.nsym s.maxbits with
  | ok codes bl nc => exact visibleState_complete_of_ok he hc
  | err cause index len => exact visibleState_complete_of_err hc

end Sys2Proof.Machine

/-! # The errors and the inputs of `CanonAssign` (R161, R162, R167, R209) -/

namespace Sys2Proof.Machine

/-! ## The length check (R162) -/

theorem firstTooLong_eq_none_iff {mb : Nat} {lens : List Nat} (i : Nat) :
    firstTooLong mb i lens = none ↔ ∀ len ∈ lens, len ≤ mb := by
  refine ⟨firstTooLong_eq_none i, fun h => ?_⟩
  induction lens generalizing i with
  | nil => rfl
  | cons len rest ih =>
    obtain ⟨hlen, hrest⟩ := List.forall_mem_cons.1 h
    rw [firstTooLong, if_neg (Nat.not_lt.2 hlen), ih _ hrest]

/-- What the check finds lies `k` places from where it starts, and nothing before it is too long. -/
theorem firstTooLong_eq_some_iff {mb : Nat} {lens : List Nat} {i j len : Nat} :
    firstTooLong mb i lens = some (j, len) ↔
      ∃ k, j = i + k ∧ k < lens.length ∧ lens.getD k 0 = len ∧ mb < len ∧ ∀ m, m < k → lens.getD m 0 ≤ mb := by
  induction lens generalizing i with
  | nil => simp [firstTooLong]
  | cons l rest ih =>
    rw [firstTooLong]
    split
    · rename_i hl
      constructor
      · intro h
        cases h
        exact ⟨0, rfl, Nat.succ_pos _, rfl, hl, by simp⟩
      · rintro ⟨k, rfl, -, rfl, -, hbefore⟩
        cases k with
        | zero => rfl
        | succ k => exact absurd hl (Nat.not_lt.2 (hbefore 0 (Nat.succ_pos k)))
    · rename_i hl
      rw [ih]
      constructor
      · rintro ⟨k, rfl, hk, hlen, hlt, hbefore⟩
        refine ⟨k + 1, by omega, Nat.succ_lt_succ hk, hlen, hlt, fun m hm => ?_⟩
        cases m with
        | zero => exact Nat.not_lt.1 hl
        | succ m => exact hbefore m (by omega)
      · rintro ⟨k, rfl, hk, rfl, hlt, hbefore⟩
        cases k with
        | zero => exact absurd hlt hl
        | succ k =>
          exact ⟨k, by omega, Nat.lt_of_succ_lt_succ hk, rfl, hlt, fun m hm => hbefore (m + 1) (by omega)⟩

theorem forall_mem_lengthsOf {mem : Memory 8} {n : Nat} {p : Nat → Prop} :
    (∀ len ∈ lengthsOf mem n, p len) ↔ ∀ i, i < n → p (mem.read i).toNat := by
  simp [lengthsOf]

/-! ## The result, by the first check that fails -/

section Canon

variable {nMax : Nat} {mem : Memory 8} {nsym maxbits : Word}

theorem canonAssign_of_many (h : nMax < nsym.toNat) : canonAssign nMax mem nsym maxbits = .err .nsymRange 0 0 :=
  if_pos h

theorem canonAssign_of_maxbits (hn : nsym.toNat ≤ nMax) (h : 15 < maxbits.toNat) :
    canonAssign nMax mem nsym maxbits = .err .maxbitsRange 0 0 :=
  (if_neg (Nat.not_lt.2 hn)).trans (if_pos h)

theorem canonAssign_of_tooLong (hn : nsym.toNat ≤ nMax) (hmb : maxbits.toNat ≤ 15) {i len : Nat}
    (h : firstTooLong maxbits.toNat 0 (lengthsOf mem nsym.toNat) = some (i, len)) :
    canonAssign nMax mem nsym maxbits = .err .lenRange i len := by
  rw [canonAssign, if_neg (Nat.not_lt.2 hn), if_neg (show ¬ Config.mbMax < _ from Nat.not_lt.2 hmb), h]

theorem canonAssign_of_legal (hn : nsym.toNat ≤ nMax) (hmb : maxbits.toNat ≤ 15)
    (h : ∀ len ∈ lengthsOf mem nsym.toNat, len ≤ maxbits.toNat) :
    canonAssign nMax mem nsym maxbits = assignLengths (lengthsOf mem nsym.toNat) maxbits.toNat := by
  rw [canonAssign, if_neg (Nat.not_lt.2 hn), if_neg (show ¬ Config.mbMax < _ from Nat.not_lt.2 hmb),
    (firstTooLong_eq_none_iff 0).2 h]

/-- The details of an error: none, or the index and the length of a symbol of the operation. -/
theorem canonAssign_err {cause : ErrCause} {index len : Nat}
    (h : canonAssign nMax mem nsym maxbits = .err cause index len) :
    (index = 0 ∧ len = 0) ∨ (index < nsym.toNat ∧ nsym.toNat ≤ nMax ∧ len = (mem.read index).toNat) := by
  by_cases hc : cause = .lenRange
  · subst hc
    unfold canonAssign at h
    split at h
    · cases h
    · rename_i hn
      split at h
      · cases h
      · split at h
        · rename_i hfirst
          cases h
          obtain ⟨k, hk, hlt, hlen, -, -⟩ := firstTooLong_eq_some_iff.1 hfirst
          obtain rfl : index = k := by omega
          rw [lengthsOf_length] at hlt
          exact .inr ⟨hlt, Nat.not_lt.1 hn, by rw [← hlen, lengthsOf_getD _ _ _ hlt]⟩
        · cases h
  · exact .inl (canonAssign_err_details h hc)

end Canon

/-- Settles O32: the result of each check in turn; the length check finds the smallest offending index. -/
theorem errorPriority : Obligations.ErrorPriority := by
  intro nMax mem nsym maxbits
  refine ⟨canonAssign_of_many, canonAssign_of_maxbits, fun hn hmb i hi hlt hbefore => ?_, fun hn hmb hlens => ?_⟩
  · refine canonAssign_of_tooLong hn hmb (firstTooLong_eq_some_iff.2 ⟨i, by omega, ?_, ?_, hlt, fun j hj => ?_⟩)
    · rwa [lengthsOf_length]
    · exact lengthsOf_getD _ _ _ hi
    · rw [lengthsOf_getD _ _ _ (Nat.lt_trans hj hi)]
      exact hbefore j hj
  · have hr := canonAssign_of_legal hn hmb (forall_mem_lengthsOf.2 hlens)
    exact ⟨_, _, _, hr, canonAssign_codes_length hr⟩

theorem lengthsOf_congr {mem mem' : Memory 8} {n : Nat} (h : ∀ i, i < n → mem.read i = mem'.read i) :
    lengthsOf mem n = lengthsOf mem' n :=
  List.map_congr_left fun i hi => congrArg BitVec.toNat (h i (List.mem_range.1 hi))

/-- Settles O39: the function sees the memory through its first `nsym` lengths. -/
theorem resultIgnoresEntriesBeyondNsym : Obligations.ResultIgnoresEntriesBeyondNsym := by
  intro nMax mem mem' nsym maxbits h
  rw [canonAssign, canonAssign, lengthsOf_congr h]

end Sys2Proof.Machine

/-! # The codes of a success: closed forms, bounds, the Kraft sum, uniqueness of bit strings (R166, R170 to R174) -/

namespace Sys2Proof.Machine

/-! ## Counting the symbols of a length below an index -/

section Count

variable {mem : Memory 8}

theorem lengthsOf_succ (mem : Memory 8) (n : Nat) : lengthsOf mem (n + 1) = lengthsOf mem n ++ [(mem.read n).toNat] := by
  simp [lengthsOf, List.range_succ]

theorem lengthsOf_take {i n : Nat} (h : i ≤ n) : (lengthsOf mem n).take i = lengthsOf mem i := by
  rw [lengthsOf, ← List.map_take, List.take_range, Nat.min_eq_left h, lengthsOf]

theorem usedCount_lengthsOf_succ (mem : Memory 8) (n L : Nat) :
    usedCount (lengthsOf mem (n + 1)) L = usedCount (lengthsOf mem n) L + if (mem.read n).toNat = L then 1 else 0 := by
  simp [lengthsOf_succ, usedCount, List.count_append, List.count_singleton]

theorem usedCount_lengthsOf_mono {i n : Nat} (h : i ≤ n) (L : Nat) :
    usedCount (lengthsOf mem i) L ≤ usedCount (lengthsOf mem n) L := by
  rw [← lengthsOf_take h]
  exact (List.take_sublist i _).count_le L

/-- A symbol is counted from its successor on. -/
theorem usedCount_lengthsOf_lt {i n : Nat} (h : i < n) :
    usedCount (lengthsOf mem i) (mem.read i).toNat < usedCount (lengthsOf mem n) (mem.read i).toNat := by
  refine Nat.lt_of_lt_of_le ?_ (usedCount_lengthsOf_mono (Nat.succ_le_of_lt h) _)
  rw [usedCount_lengthsOf_succ, if_pos rfl]
  exact Nat.lt_succ_self _

theorem usedCount_lengthsOf_of_absent {i n L : Nat} (h : i ≤ n) (habs : ∀ k, i ≤ k → k < n → (mem.read k).toNat ≠ L) :
    usedCount (lengthsOf mem n) L = usedCount (lengthsOf mem i) L := by
  induction n, h using Nat.le_induction with
  | base => rfl
  | succ n hn ih =>
    rw [usedCount_lengthsOf_succ, if_neg (habs n hn (Nat.lt_succ_self n)), ih fun k hk hkn => habs k hk (by omega),
      Nat.add_zero]

end Count

/-! ## R170's sums: one symbol more, bounds, growth, the Kraft sum -/

/-- What a symbol of length `len` adds to the sum of R170 at `L`. -/
theorem closedNextCode_cons (len : Nat) (lens : List Nat) (L : Nat) :
    closedNextCode (len :: lens) L
      = (if 1 ≤ len ∧ len ≤ L then 2 ^ (L - len) else 0) + closedNextCode lens L := by
  induction L with
  | zero =>
    rw [if_neg (by omega)]
    rfl
  | succ L ih =>
    have hcount : usedCount (len :: lens) (L + 1) = usedCount lens (L + 1) + if len = L + 1 then 1 else 0 := by
      simp [usedCount, List.count_cons]
    rw [closedNextCode_succ, closedNextCode_succ, closedStartCode_succ, closedStartCode_succ, ih, hcount]
    by_cases heq : len = L + 1
    · rw [if_neg (by omega), if_pos heq, if_pos (by omega), heq, Nat.sub_self, Nat.pow_zero]
      omega
    · by_cases hlen : 1 ≤ len ∧ len ≤ L
      · have hpow : 2 ^ (L + 1 - len) = 2 * 2 ^ (L - len) := by
          rw [Nat.succ_sub hlen.2, Nat.pow_succ, Nat.mul_comm]
        rw [if_pos hlen, if_neg heq, if_pos (by omega), hpow]
        omega
      · rw [if_neg hlen, if_neg heq, if_neg (by omega)]
        omega

theorem closedNextCode_le (lens : List Nat) (m : Nat) : closedNextCode lens (m + 1) ≤ 2 ^ m * lens.length := by
  induction lens with
  | nil => simp [closedNextCode, usedCount]
  | cons len rest ih =>
    have hweight : (if 1 ≤ len ∧ len ≤ m + 1 then 2 ^ (m + 1 - len) else 0) ≤ 2 ^ m := by
      split
      · exact Nat.pow_le_pow_right (by omega) (by omega)
      · exact Nat.zero_le _
    rw [closedNextCode_cons, List.length_cons, Nat.mul_succ]
    omega

theorem closedStartCode_le (lens : List Nat) (m : Nat) :
    closedStartCode lens (m + 1) ≤ 2 ^ m * ((List.range m).map fun j => usedCount lens (j + 1)).sum := by
  induction m with
  | zero => simp [closedStartCode]
  | succ m ih =>
    have hcount : 2 * usedCount lens (m + 1) ≤ 2 ^ (m + 1) * usedCount lens (m + 1) :=
      Nat.mul_le_mul_right _ (Nat.le_self_pow (by omega) 2)
    rw [closedStartCode_succ, closedNextCode_succ, List.range_succ, List.map_append, List.sum_append, List.map_singleton,
      List.sum_singleton, Nat.mul_add, Nat.mul_add]
    simp only [Nat.pow_succ', Nat.mul_assoc] at hcount ⊢
    omega

/-- From one length to the next the sum at least doubles, so codes of the longer lengths start beyond it (R174). -/
theorem closedNextCode_mul_pow_le (lens : List Nat) {L M : Nat} (h : L ≤ M) :
    closedNextCode lens L * 2 ^ (M - L) ≤ closedNextCode lens M := by
  induction M, h using Nat.le_induction with
  | base => simp
  | succ M hM ih =>
    rw [closedNextCode_succ, closedStartCode_succ, Nat.succ_sub hM, Nat.pow_succ, ← Nat.mul_assoc]
    omega

theorem closedNextCode_mul_pow_le_start (lens : List Nat) {L M : Nat} (h : L < M) :
    closedNextCode lens L * 2 ^ (M - L) ≤ closedStartCode lens M := by
  obtain ⟨m, rfl⟩ := Nat.exists_eq_add_of_le' (show 1 ≤ M by omega)
  have hm := closedNextCode_mul_pow_le lens (Nat.le_of_lt_succ h)
  rw [closedStartCode_succ, Nat.succ_sub (Nat.le_of_lt_succ h), Nat.pow_succ, ← Nat.mul_assoc]
  omega

theorem closedNextCode_eq_kraftSum {mb : Nat} {lens : List Nat} (h : ∀ len ∈ lens, len ≤ mb) :
    closedNextCode lens mb = kraftSum mb lens := by
  induction lens with
  | nil => simp [closedNextCode, usedCount, kraftSum]
  | cons len rest ih =>
    obtain ⟨hlen, hrest⟩ := List.forall_mem_cons.1 h
    have hused : (1 ≤ len ∧ len ≤ mb) ↔ len ≠ 0 := by omega
    rw [closedNextCode_cons, ih hrest, kraftSum]
    simp only [hused]

/-! ## The codes of a success -/

section Canon

variable {nMax : Nat} {mem : Memory 8} {nsym maxbits : Word} {codes : List Nat} {bl nc : LenTable}

theorem one_le_toNat_of_ne_zero {v : Byte} (h : v ≠ 0#8) : 1 ≤ v.toNat :=
  Nat.one_le_iff_ne_zero.2 fun h0 => h (BitVec.eq_of_toNat_eq h0)

theorem canonAssign_length_le (h : canonAssign nMax mem nsym maxbits = .ok codes bl nc) {i : Nat} (hi : i < nsym.toNat) :
    (mem.read i).toNat ≤ maxbits.toNat := by
  obtain ⟨-, -, hlens, -⟩ := canonAssign_ok h
  exact forall_mem_lengthsOf.1 hlens i hi

theorem canonAssign_startCodes (h : canonAssign nMax mem nsym maxbits = .ok codes bl nc) {L : Nat} (h1 : 1 ≤ L)
    (hL : L ≤ maxbits.toNat) :
    (startCodes bl maxbits.toNat).entry L = closedStartCode (lengthsOf mem nsym.toNat) L := by
  obtain ⟨-, hmb, -, -, rfl, -⟩ := canonAssign_ok h
  rw [startCodes_entry _ hmb, if_pos ⟨h1, hL⟩]

/-- The code of the `j`-th used symbol of a length (R170). -/
theorem canonAssign_code (h : canonAssign nMax mem nsym maxbits = .ok codes bl nc) {i : Nat} (hi : i < nsym.toNat)
    (h0 : mem.read i ≠ 0#8) :
    codes.getD i 0 = closedStartCode (lengthsOf mem nsym.toNat) (mem.read i).toNat
      + usedCount (lengthsOf mem i) (mem.read i).toNat := by
  have h1 := one_le_toNat_of_ne_zero h0
  have hle := canonAssign_length_le h hi
  rw [← canonAssign_startCodes h h1 hle]
  obtain ⟨-, hmb, hlens, rfl, -, -⟩ := canonAssign_ok h
  have hnl : ∀ len ∈ lengthsOf mem nsym.toNat, len < Config.nl := fun len hm =>
    Nat.lt_of_le_of_lt (hlens len hm) (show maxbits.toNat < 16 by omega)
  rw [assignCodes_code hnl, lengthsOf_getD _ _ _ hi, lengthsOf_take hi.le, if_neg (by omega)]

theorem canonAssign_code_lt_next (h : canonAssign nMax mem nsym maxbits = .ok codes bl nc) {i : Nat}
    (hi : i < nsym.toNat) (h0 : mem.read i ≠ 0#8) :
    codes.getD i 0 < closedNextCode (lengthsOf mem nsym.toNat) (mem.read i).toNat := by
  rw [canonAssign_code h hi h0, closedNextCode_eq _ (one_le_toNat_of_ne_zero h0)]
  exact Nat.add_lt_add_left (usedCount_lengthsOf_lt hi) _

/-- The last `next_code` is the Kraft sum (R173). -/
theorem canonAssign_kraftSum (h : canonAssign nMax mem nsym maxbits = .ok codes bl nc) :
    closedNextCode (lengthsOf mem nsym.toNat) maxbits.toNat = kraftSum maxbits.toNat (lengthsOf mem nsym.toNat) := by
  obtain ⟨-, -, hlens, -⟩ := canonAssign_ok h
  exact closedNextCode_eq_kraftSum hlens

/-- Under the Kraft inequality the sum of R170 at a length leaves room in that length. -/
theorem closedNextCode_le_two_pow {lens : List Nat} {L mb : Nat} (hL : L ≤ mb) (hk : closedNextCode lens mb ≤ 2 ^ mb) :
    closedNextCode lens L ≤ 2 ^ L := by
  have hgrow := closedNextCode_mul_pow_le lens hL
  have hpow : 2 ^ mb = 2 ^ L * 2 ^ (mb - L) := by rw [← Nat.pow_add, Nat.add_sub_cancel' hL]
  exact Nat.le_of_mul_le_mul_right (hgrow.trans (hpow ▸ hk)) (Nat.two_pow_pos _)

theorem canonAssign_code_lt_two_pow (h : canonAssign nMax mem nsym maxbits = .ok codes bl nc)
    (hk : kraftSum maxbits.toNat (lengthsOf mem nsym.toNat) ≤ 2 ^ maxbits.toNat) {i : Nat} (hi : i < nsym.toNat)
    (h0 : mem.read i ≠ 0#8) : codes.getD i 0 < 2 ^ (mem.read i).toNat :=
  Nat.lt_of_lt_of_le (canonAssign_code_lt_next h hi h0)
    (closedNextCode_le_two_pow (canonAssign_length_le h hi) (canonAssign_kraftSum h ▸ hk))

/-- Of two symbols of one length the later has the greater code. -/
theorem canonAssign_code_lt_of_lt (h : canonAssign nMax mem nsym maxbits = .ok codes bl nc) {a b : Nat} (hab : a < b)
    (hb : b < nsym.toNat) (h0 : mem.read a ≠ 0#8) (heq : mem.read b = mem.read a) :
    codes.getD a 0 < codes.getD b 0 := by
  rw [canonAssign_code h (hab.trans hb) h0, canonAssign_code h hb (heq ▸ h0), heq]
  exact Nat.add_lt_add_left (usedCount_lengthsOf_lt hab) _

/-- Codes of a longer length start beyond the codes of a shorter one, read in the longer length. -/
theorem canonAssign_code_succ_mul_pow_le (h : canonAssign nMax mem nsym maxbits = .ok codes bl nc) {a b : Nat}
    (ha : a < nsym.toNat) (hb : b < nsym.toNat) (ha0 : mem.read a ≠ 0#8) (hb0 : mem.read b ≠ 0#8)
    (hlt : (mem.read a).toNat < (mem.read b).toNat) :
    (codes.getD a 0 + 1) * 2 ^ ((mem.read b).toNat - (mem.read a).toNat) ≤ codes.getD b 0 := by
  calc (codes.getD a 0 + 1) * 2 ^ ((mem.read b).toNat - (mem.read a).toNat)
      ≤ closedNextCode (lengthsOf mem nsym.toNat) (mem.read a).toNat
          * 2 ^ ((mem.read b).toNat - (mem.read a).toNat) :=
        Nat.mul_le_mul_right _ (canonAssign_code_lt_next h ha ha0)
    _ ≤ closedStartCode (lengthsOf mem nsym.toNat) (mem.read b).toNat := closedNextCode_mul_pow_le_start _ hlt
    _ ≤ codes.getD b 0 := by
        rw [canonAssign_code h hb hb0]
        exact Nat.le_add_right _ _

end Canon

/-! ## The statements about the function -/

/-- Settles O33: the tables are R170's sums, and a used symbol's code is `canonAssign_code`. -/
theorem closedForms : Obligations.ClosedForms := by
  intro nMax mem nsym maxbits codes bl nc h
  refine ⟨fun L h1 hL => ?_, fun i hi h0 => canonAssign_code h hi h0⟩
  obtain ⟨hbl, hnc⟩ := canonAssign_tables h h1 hL
  exact ⟨hbl, canonAssign_startCodes h h1 hL, by rw [hnc, hbl, closedNextCode_eq _ h1], hnc⟩

/-- Settles O34: the loops write no entry outside `1..maxbits`, and an unused symbol takes no code. -/
theorem unusedEntriesAreZero : Obligations.UnusedEntriesAreZero := by
  intro nMax mem nsym maxbits codes bl nc h
  obtain ⟨hbl, hnc⟩ := canonAssign_tables_zero h (L := 0) (by omega)
  exact ⟨fun i hi h0 => canonAssign_code_of_length_zero h hi h0, hbl, hnc,
    fun L hL => canonAssign_tables_zero h (by omega)⟩

/-- The counts below a length, as the table holds them. -/
theorem canonAssign_sum_blCount {nMax : Nat} {mem : Memory 8} {nsym maxbits : Word} {codes : List Nat} {bl nc : LenTable}
    (h : canonAssign nMax mem nsym maxbits = .ok codes bl nc) {m : Nat} (hm : m ≤ maxbits.toNat) :
    ((List.range (m + 1)).map bl.entry).sum
      = ((List.range m).map fun j => usedCount (lengthsOf mem nsym.toNat) (j + 1)).sum := by
  have hzero : bl.entry 0 = 0 := (canonAssign_tables_zero h (by omega)).1
  rw [List.range_succ_eq_map, List.map_cons, List.sum_cons, List.map_map, hzero, Nat.zero_add]
  refine congrArg List.sum (List.map_congr_left fun j hj => ?_)
  have hj : j < m := List.mem_range.1 hj
  exact (canonAssign_tables h (L := j + 1) (by omega) (by omega)).1

/-- Settles O35: the sums of R170 are bounded by the number of symbols, and the last entry at `L = 15` by `2^14 * 65535`. -/
theorem noValueExceedsItsRegister : Obligations.NoValueExceedsItsRegister := by
  intro nMax mem nsym maxbits codes bl nc hn h
  obtain ⟨hns, hmb, -⟩ := canonAssign_ok h
  refine ⟨fun L => ?_, fun L h1 hL => ?_, fun i hi h0 => ?_⟩
  · by_cases hL : 1 ≤ L ∧ L ≤ maxbits.toNat
    · rw [(canonAssign_tables h hL.1 hL.2).1]
      exact (usedCount_le _ L).trans_eq (lengthsOf_length _ _)
    · rw [(canonAssign_tables_zero h hL).1]
      exact Nat.zero_le _
  · obtain ⟨m, rfl⟩ := Nat.exists_eq_add_of_le' h1
    obtain ⟨hbl, hnc⟩ := canonAssign_tables h h1 hL
    have hle := closedNextCode_le (lengthsOf mem nsym.toNat) m
    have hmax : 2 ^ m * nsym.toNat ≤ 2 ^ 14 * 65535 :=
      Nat.mul_le_mul (Nat.pow_le_pow_right (by omega) (by omega)) (by omega)
    rw [lengthsOf_length] at hle
    rw [canonAssign_startCodes h h1 hL, canonAssign_sum_blCount h (by omega), hbl, hnc, Nat.add_sub_cancel]
    exact ⟨closedStartCode_le _ m, (closedNextCode_succ _ m).symm, hle, by omega⟩
  · rw [(canonAssign_tables h (one_le_toNat_of_ne_zero h0) (canonAssign_length_le h hi)).2]
    exact canonAssign_code_lt_next h hi h0

/-- Settles O36: R170's sum at `maxbits` is the Kraft sum; the registers of a DONE state hold the function's results. -/
theorem kraftSumIsTheLastNextCode : Obligations.KraftSumIsTheLastNextCode := by
  refine ⟨fun nMax mem nsym maxbits codes bl nc h => ⟨fun h1 => ?_, fun h0 => ?_, fun hk i hi hi0 => ?_⟩,
    fun s K hinv hdone hK => ?_⟩
  · rw [(canonAssign_tables h h1 le_rfl).2, canonAssign_kraftSum h]
  · rw [← canonAssign_kraftSum h, h0]
    rfl
  · exact canonAssign_code_lt_two_pow h hk hi hi0
  · subst hK
    obtain ⟨codes, bl, nc, hr, hcodes, hregs⟩ := hinv.results hdone
    refine ⟨fun h1 => ?_, fun h0 => ?_, fun hk i hi hi0 => ?_⟩
    · obtain ⟨-, hmb, -⟩ := canonAssign_ok hr
      have hidx : (BitVec.ofNat 4 s.maxbits.toNat).toNat = s.maxbits.toNat := Nat.mod_eq_of_lt (by omega)
      have hreg := (hregs (BitVec.ofNat 4 s.maxbits.toNat)).2
      rw [hidx, (canonAssign_tables hr h1 le_rfl).2, canonAssign_kraftSum hr] at hreg
      rw [hreg]
      exact ⟨rfl, Iff.rfl, Iff.rfl⟩
    · rw [← canonAssign_kraftSum hr, h0]
      rfl
    · rw [hcodes i hi]
      exact canonAssign_code_lt_two_pow hr hk hi hi0

/-- Settles O37: between the two symbols the number of earlier symbols of their length grows by one, the first of them. -/
theorem equalLengthsAreConsecutive : Obligations.EqualLengthsAreConsecutive := by
  intro nMax mem nsym maxbits codes bl nc a b h hab hb h0 heq habs
  have hcount : usedCount (lengthsOf mem b) (mem.read a).toNat = usedCount (lengthsOf mem a) (mem.read a).toNat + 1 := by
    rw [usedCount_lengthsOf_of_absent (Nat.succ_le_of_lt hab), usedCount_lengthsOf_succ, if_pos rfl]
    exact fun k hk hkb hread => habs k hk hkb (BitVec.eq_of_toNat_eq hread)
  rw [canonAssign_code h (hab.trans hb) h0, canonAssign_code h hb (heq ▸ h0), heq, hcount, Nat.add_assoc]

/-! ## Bit strings of codes (R69, R174) -/

@[simp] theorem codeString_length (L code : Nat) : (codeString L code).length = L := by simp [codeString]

/-- The first `L` bits of a code of length `M` are the code without its low `M - L` bits. -/
theorem codeString_take {L M : Nat} (h : L ≤ M) (code : Nat) :
    (codeString M code).take L = codeString L (code / 2 ^ (M - L)) := by
  rw [codeString, ← List.map_take, List.take_range, Nat.min_eq_left h, codeString]
  refine List.map_congr_left fun k hk => ?_
  have hk : k < L := List.mem_range.1 hk
  rw [Nat.testBit_div_two_pow]
  congr 1
  omega

theorem codeString_inj {L c d : Nat} (hc : c < 2 ^ L) (hd : d < 2 ^ L) (h : codeString L c = codeString L d) : c = d := by
  refine Nat.eq_of_testBit_eq fun k => ?_
  by_cases hk : k < L
  · have hbit := List.map_inj_left.1 h (L - 1 - k) (List.mem_range.2 (by omega))
    rwa [show L - 1 - (L - 1 - k) = k by omega] at hbit
  · have hpow : 2 ^ L ≤ 2 ^ k := Nat.pow_le_pow_right (by omega) (by omega)
    rw [Nat.testBit_lt_two_pow (hc.trans_le hpow), Nat.testBit_lt_two_pow (hd.trans_le hpow)]

theorem codeString_prefix {L M c d : Nat} (hc : c < 2 ^ L) (hd : d < 2 ^ M) (h : codeString L c <+: codeString M d) :
    L ≤ M ∧ c = d / 2 ^ (M - L) := by
  have hLM : L ≤ M := by simpa using h.length_le
  have htake := List.prefix_iff_eq_take.1 h
  rw [codeString_length, codeString_take hLM] at htake
  refine ⟨hLM, codeString_inj hc (Nat.div_lt_of_lt_mul ?_) htake⟩
  rwa [← Nat.pow_add, Nat.sub_add_cancel hLM]

/-- Settles O38: the leading bits of a code are the code without its low bits; but codes of one length differ, and a longer
length starts beyond every shorter code. -/
theorem codesArePrefixFree : Obligations.CodesArePrefixFree := by
  intro nMax mem nsym maxbits codes bl nc a b h hk ha hb hab ha0 hb0 hpre
  obtain ⟨hle, heq⟩ := codeString_prefix (canonAssign_code_lt_two_pow h hk ha ha0)
    (canonAssign_code_lt_two_pow h hk hb hb0) hpre
  obtain hlt | hlen := Nat.lt_or_eq_of_le hle
  · have hbeyond := canonAssign_code_succ_mul_pow_le h ha hb ha0 hb0 hlt
    have hdiv := (Nat.le_div_iff_mul_le (Nat.two_pow_pos _)).2 hbeyond
    omega
  · have hread : mem.read a = mem.read b := BitVec.eq_of_toNat_eq hlen
    rw [hlen, Nat.sub_self, Nat.pow_zero, Nat.div_one] at heq
    obtain hlt | hlt := Nat.lt_or_gt_of_ne hab
    · have := canonAssign_code_lt_of_lt h hlt hb ha0 hread.symm
      omega
    · have := canonAssign_code_lt_of_lt h hlt ha hb0 hread
      omega

end Sys2Proof.Machine

/-! # The completion step and its inputs (R160, R168, R169, R122) -/

namespace Sys2Proof.Machine

/-- Settles O8: the turn tests `BUSY`, and a step with no input left is a turn. -/
theorem sequencerRunsOnlyWhileBusy : Obligations.SequencerRunsOnlyWhileBusy := by
  intro s rest
  refine ⟨fun hs hb => ?_, fun hs hb => ?_, fun hs hb => ?_, fun hs hb => ?_⟩
  · rw [step_of_schedule_sequencer hs, sequencerTurn_of_busy (s := { s with schedule := rest }) hb]
  · rw [step_of_schedule_sequencer hs, sequencerTurn_of_not_busy (s := { s with schedule := rest }) hb]
  · rw [step_of_schedule_nil hs, sequencerTurn_of_busy hb]
  · rw [step_of_schedule_nil hs, sequencerTurn_of_not_busy hb]

/-- Settles O40: the turn commits the result; the invariant's `ResultsHold` of the next state says that no value is cut. -/
theorem successfulCompletionCommits : Obligations.SuccessfulCompletionCommits := by
  intro s rest codes bl nc hinv hb hs hr
  have hstep := (sequencerRunsOnlyWhileBusy s rest).1 hs hb
  rw [complete_of_ok (s := { s with schedule := rest }) hr] at hstep
  obtain ⟨codes', bl', nc', hr', hcodes, hregs⟩ := commitSuccess_results (hinv.of_schedule rest) hr
  cases hr.symm.trans hr'
  refine ⟨_, _, _, _, hstep, rfl, hcodes, fun i hi => ?_, hregs, (hinv.only_busy hb).2, ?_⟩
  · have hout : ¬ (0 ≤ i ∧ i < 0 + codes.length) := by
      rw [canonAssign_codes_length hr]
      omega
    exact (storeCodes_read codes s.codeMem 0 i hinv.codeWf).trans (if_neg hout)
  · simp [irq]

/-- The details of an error fit their fields, with the number of slots R9 allows. -/
theorem canonAssign_err_lt {nMax : Nat} {mem : Memory 8} {nsym maxbits : Word} {cause : ErrCause} {index len : Nat}
    (hn : nMax ≤ 65535) (h : canonAssign nMax mem nsym maxbits = .err cause index len) :
    index < 2 ^ 16 ∧ len < 2 ^ 8 := by
  obtain ⟨rfl, rfl⟩ | ⟨hi, hns, rfl⟩ := canonAssign_err h
  · decide
  · exact ⟨by omega, (mem.read index).isLt⟩

theorem nMax_le_of_wf {cfg : Config} (h : cfg.wf = true) : cfg.nMax ≤ 65535 := by
  simp only [Config.wf, Bool.and_eq_true, decide_eq_true_eq] at h
  exact h.2

/-- Settles O41: the turn records the error; an index is below `N_MAX` and a length is an entry of `LEN_MEM`. -/
theorem failedCompletionRecordsItsError : Obligations.FailedCompletionRecordsItsError := by
  intro s rest cause index len hwf hb hs hr
  have hstep := (sequencerRunsOnlyWhileBusy s rest).1 hs hb
  rw [complete_of_err (s := { s with schedule := rest }) hr] at hstep
  obtain ⟨hindex, hlen⟩ := canonAssign_err_lt (nMax_le_of_wf hwf) hr
  exact ⟨_, hstep, rfl, Nat.mod_eq_of_lt hindex, Nat.mod_eq_of_lt hlen, rfl, by simp [irq]⟩

/-! ## A running operation keeps its inputs -/

/-- The inputs of `CanonAssign`, and with them its result, are the same. -/
def SameInputs (s t : State) : Prop :=
  t.lenMem = s.lenMem ∧ t.nsym = s.nsym ∧ t.maxbits = s.maxbits
    ∧ canonAssign t.cfg.nMax t.lenMem t.nsym t.maxbits = canonAssign s.cfg.nMax s.lenMem s.nsym s.maxbits

theorem SameInputs.trans {s t u : State} (h : SameInputs s t) (h' : SameInputs t u) : SameInputs s u := by
  obtain ⟨hlen, hnsym, hmaxbits, hr⟩ := h
  obtain ⟨hlen', hnsym', hmaxbits', hr'⟩ := h'
  exact ⟨hlen'.trans hlen, hnsym'.trans hnsym, hmaxbits'.trans hmaxbits, hr'.trans hr⟩

/-- A transaction writes no input while BUSY (R122). -/
theorem HostEffect.sameInputs {s t : State} (he : HostEffect s t) (hb : s.busy = true) : SameInputs s t := by
  cases he with
  | writesNsym w hb' => simp [hb] at hb'
  | writesMaxbits w hb' => simp [hb] at hb'
  | writesLen i w hb' hi => simp [hb] at hb'
  | _ => exact ⟨rfl, rfl, rfl, rfl⟩

theorem HostEffect.schedule_eq {s t : State} (he : HostEffect s t) : t.schedule = s.schedule := by
  cases he <;> rfl

theorem TurnEffect.not_busy {s t : State} (he : TurnEffect s t) : t.busy = false := by
  cases he with
  | notEnabled hb => exact hb
  | _ => rfl

/-- A step that leaves the block BUSY, and is no reset, is a transaction. -/
theorem step_while_busy {s t : State} (hb : s.busy = true) (ht : t.busy = true) (hreset : Event.reset ∉ s.schedule)
    (h : step s = .next t) : SameInputs s t ∧ Event.reset ∉ t.schedule := by
  obtain ⟨-, he⟩ | ⟨rest, -, he⟩ | ⟨rest, hs, -⟩ | ⟨tr, rest, r, s', hs, -, rfl, he⟩ := step_cases h
  · simp [he.not_busy] at ht
  · simp [he.not_busy] at ht
  · simp [hs] at hreset
  · refine ⟨he.sameInputs (s := { s with schedule := rest }) hb, ?_⟩
    rw [respond_schedule, he.schedule_eq]
    exact fun hm => hreset (hs ▸ List.mem_cons_of_mem _ hm)

/-- Settles O48: induction over the steps, each of them a transaction that meets a BUSY block. -/
theorem inputsAreFrozenWhileBusy : Obligations.InputsAreFrozenWhileBusy := by
  intro k
  induction k with
  | zero =>
    intro s t _ _ h
    cases h
    exact ⟨rfl, rfl, rfl, rfl⟩
  | succ k ih =>
    intro s t hreset hbusy h
    obtain ⟨u, hu⟩ := everyStepAnswersNext s
    have hb : s.busy = true := by
      obtain ⟨s', hs', hb⟩ := hbusy 0 (Nat.zero_le _)
      cases hs'
      exact hb
    have hbusy' : ∀ j, j ≤ k → ∃ v, Host.Core.run core j u = .next v ∧ State.busy v = true := fun j hj => by
      rw [← run_succ_of_step hu j]
      exact hbusy (j + 1) (Nat.succ_le_succ hj)
    have hub : u.busy = true := by
      obtain ⟨u', hu', hub⟩ := hbusy' 0 (Nat.zero_le k)
      cases hu'
      exact hub
    obtain ⟨hsame, hreset'⟩ := step_while_busy hb hub hreset hu
    rw [run_succ_of_step hu] at h
    exact hsame.trans (ih u t hreset' hbusy' h)

end Sys2Proof.Machine

/-! # The call `assign_canonical_codes` (R176)

While the host writes, what counts is that the lines still to come start the operation on the call's inputs (`Starts`); that
they do is a forward run of the block alone. `CallInv` says where every other phase stands, and every turn keeps it. -/

namespace Sys2Proof.Machine

/-! ## One step of the block under the call -/

theorem step_advance (e : Event) (s : State) : step { s with schedule := [e] } = .next (advance e s) := by
  obtain ⟨t, ht⟩ := everyStepAnswersNext { s with schedule := [e] }
  simp [advance, ht]

theorem advance_cfg (e : Event) (s : State) : (advance e s).cfg = s.cfg :=
  (step_cfg (step_advance e s) :)

theorem State.Inv.advance {s : State} (h : s.Inv) (e : Event) : (advance e s).Inv :=
  stepKeepsTheInvariant _ _ (h.of_schedule [e]) (step_advance e s)

/-- The block after a read of the host: the answer is all the read leaves. -/
def answered (r : Response) (s : State) : State := respond r { s with schedule := [] }

theorem State.Inv.answered {s : State} (h : s.Inv) (r : Response) : (answered r s).Inv :=
  h.of_unread s.irqEn s.wign [] (some r)

theorem exec_writeRow (w : Word) (p : Target) (s : State) :
    ∃ t resp, exec (writeRow w p) s = .next t ∧ t.response = some (.write resp) := by
  cases p
  case len i =>
    by_cases hi : i.toNat < s.cfg.nMax
    · exact ⟨_, _, exec_wrLen hi w, rfl⟩
    · exact ⟨refuseWrite s, .error, congrArg Host.Outcome.next (if_neg hi), rfl⟩
  all_goals exact ⟨_, _, rfl, rfl⟩

theorem exec_decodeBus_write (nMax : Nat) (off : Offset) (w : Word) (s : State) :
    ∃ t resp, exec (decodeBus nMax (.write off w fullStrobe)) s = .next t ∧ t.response = some (.write resp) := by
  cases hp : decodeOffset nMax off <;> simp only [decodeBus, hp]
  case misaligned => exact ⟨_, _, rfl, rfl⟩
  case unmapped => exact ⟨_, _, rfl, rfl⟩
  case mapped p => exact exec_writeRow w p s

section Turn

variable {lens : List Word} {mb : Word} {c : CallState}

/-- A turn of the host with a read: the answer decides the phase; a place in bounds answers the word it shows. -/
theorem callTurn_rd {p : Target} (hl : callLine c.phase = some (rd p)) :
    ∃ v resp, callTurn lens mb c .host
          = { phase := callAnswer lens mb c.phase (.read v resp), block := answered (.read v resp) c.block }
        ∧ (p.inBounds c.block.cfg.nMax = true → v = shownWord c.block p) := by
  obtain ⟨v, resp, h⟩ := exec_decodeBus_read c.block.cfg.nMax p.offset { c.block with schedule := [] }
  refine ⟨v, resp, callTurn_host hl h rfl, fun hin => ?_⟩
  rw [decodeBus_read_offset hin, exec_readRow_of_inBounds (s := { c.block with schedule := [] }) hin] at h
  cases h
  rfl

/-- A turn of the host with a write: the answer decides nothing. -/
theorem callTurn_writing {p : Target} {w : Word} {rest : List ScriptLine} (hp : c.phase = .writing (wr p w) rest) :
    callTurn lens mb c .host = { phase := nextWrite rest, block := advance (wr p w).event c.block } := by
  obtain ⟨t, resp, ht, hr⟩ := exec_decodeBus_write c.block.cfg.nMax p.offset w { c.block with schedule := [] }
  have hl : callLine c.phase = some (wr p w) := by rw [hp]; rfl
  rw [callTurn_host hl ht hr, advance_line (line := wr p w) ht, hp]
  rfl

theorem callTurn_waiting (hp : c.phase = .waiting) :
    ∃ r, callTurn lens mb c .host
      = { phase := if c.block.busy then .waiting else nextWrite (callLines c.block.err lens mb)
          block := answered r c.block } := by
  obtain ⟨v, resp, h, hv⟩ := callTurn_rd (lens := lens) (mb := mb) (c := c) (p := .status) (by rw [hp]; rfl)
  obtain rfl : v = statusWord c.block := hv rfl
  exact ⟨_, by rw [h, hp, callAnswer, statusBusy, statusErr, statusWord_busy, statusWord_err]⟩

theorem statusWord_errCode (s : State) : statusErrCode (statusWord s) = s.errCode := by
  have hbusy := s.busy.toNat_lt
  have hdone := s.done.toNat_lt
  have herr := s.err.toNat_lt
  have hwign := s.wign.toNat_lt
  have hcode := s.errCode.isLt
  have hword := statusWord_toNat s
  exact extractLsb'_eq_of_toNat (by omega)

theorem callTurn_polling (hp : c.phase = .polling) :
    ∃ r, callTurn lens mb c .host
      = { phase := if c.block.busy then .polling
            else if c.block.done then nextRead lens.length [] else .failing c.block.errCode
          block := answered r c.block } := by
  obtain ⟨v, resp, h, hv⟩ := callTurn_rd (lens := lens) (mb := mb) (c := c) (p := .status) (by rw [hp]; rfl)
  obtain rfl : v = statusWord c.block := hv rfl
  exact ⟨_, by rw [h, hp, callAnswer, statusBusy, statusDone, statusWord_busy, statusWord_done, statusWord_errCode]⟩

theorem callTurn_reading {codes : List Word} (hp : c.phase = .reading codes) :
    ∃ v r, callTurn lens mb c .host
          = { phase := nextRead lens.length (codes ++ [v]), block := answered r c.block }
        ∧ ((BitVec.ofNat 16 codes.length).toNat < c.block.cfg.nMax →
            v = gatedCode (BitVec.ofNat 16 codes.length) c.block) := by
  obtain ⟨v, resp, h, hv⟩ := callTurn_rd (lens := lens) (mb := mb) (c := c)
    (p := .code (BitVec.ofNat 16 codes.length)) (by rw [hp]; rfl)
  exact ⟨v, _, by rw [h, hp, callAnswer], fun hi => hv (decide_eq_true hi)⟩

theorem callTurn_failing {e : BitVec 4} (hp : c.phase = .failing e) :
    ∃ r, callTurn lens mb c .host
      = { phase := .returned (.failed e (errInfoWord c.block)), block := answered r c.block } := by
  obtain ⟨v, resp, h, hv⟩ := callTurn_rd (lens := lens) (mb := mb) (c := c) (p := .errInfo) (by rw [hp]; rfl)
  obtain rfl : v = errInfoWord c.block := hv rfl
  exact ⟨_, by rw [h, hp, callAnswer]⟩

theorem callTurn_returned {r : CallResult} (hp : c.phase = .returned r) : callTurn lens mb c .host = c := by
  simp [callTurn, callLine, hp]

end Turn

/-! ## The writes of the call -/

section Write

variable {s : State}

/-- A write to a place that is there runs its row. -/
theorem advance_wr {p : Target} {w : Word} {t : State} (hin : p.inBounds s.cfg.nMax = true)
    (h : exec (writeRow w p) { s with schedule := [] } = .next t) : advance (wr p w).event s = t := by
  refine advance_line ?_
  rw [← h]
  exact congrArg (exec · _) ((decodeBus_write_offset hin w fullStrobe).trans (if_neg (not_not.2 rfl)))

theorem advance_clrstat (hb : s.busy = false) :
    advance pseudoClrstat.event s = answerWrite (clearStatus { s with schedule := [] }) := by
  refine advance_wr (p := .cmd) rfl ((exec_decodeCmd 2#32 _).symm.trans ?_)
  rw [show decodeCmd _ 2#32 = .clrstat from congrArg (decodeCmd · 2#32) hb]
  exact exec_clrstat (s := { s with schedule := [] }) hb

theorem advance_assign (hb : s.busy = false) (he : s.err = false) :
    advance pseudoAssign.event s = answerWrite { s with schedule := [], done := false, busy := true } := by
  refine advance_wr (p := .cmd) rfl ((exec_decodeCmd 1#32 _).symm.trans ?_)
  rw [show decodeCmd _ 1#32 = .assign from congrArg (decodeCmd · 1#32) hb]
  rw [exec_assign (s := { s with schedule := [] }) hb, commandAssign_of_no_err (s := { s with schedule := [] }) he]

theorem advance_wrNsym (hb : s.busy = false) (w : Word) :
    advance (wr .nsym w).event s = answerWrite (inputWritten { s with schedule := [], nsym := w }) := by
  refine advance_wr (p := .nsym) rfl ((exec_wrNsym w _).trans ?_)
  rw [writeInput_of_not_busy (s := { s with schedule := [] }) hb]

theorem advance_wrMaxbits (hb : s.busy = false) (w : Word) :
    advance (wr .maxbits w).event s = answerWrite (inputWritten { s with schedule := [], maxbits := w }) := by
  refine advance_wr (p := .maxbits) rfl ((exec_wrMaxbits w _).trans ?_)
  rw [writeInput_of_not_busy (s := { s with schedule := [] }) hb]

theorem advance_wrLen (hb : s.busy = false) {i : SymIndex} (hi : i.toNat < s.cfg.nMax) (w : Word) :
    advance (wr (.len i) w).event s
      = answerWrite (inputWritten { s with schedule := [], lenMem := s.lenMem.write i.toNat (saturateLen w) }) := by
  refine advance_wr (p := .len i) (decide_eq_true hi) ((exec_wrLen (s := { s with schedule := [] }) hi w).trans ?_)
  rw [writeInput_of_not_busy (s := { s with schedule := [] }) hb]

theorem advance_wrLen_unmapped {i : SymIndex} (hi : s.cfg.nMax ≤ i.toNat) (w : Word) :
    advance (wr (.len i) w).event s = refuseWrite { s with schedule := [] } := by
  have hoff := Target.offset_len_toNat i
  have hlt := i.isLt
  have hu : inUnmappedSet s.cfg.nMax (Target.len i).offset = true :=
    (inUnmappedSet_iff _ _).2 (.inl ⟨by omega, by omega, by rwa [symIndexOf_offset_len]⟩)
  exact advance_line (exec_decodeBus_of_refused (r := (wr (.len i) w).request) (.inr (.inl hu)) _)

end Write

/-! ## The writes start the operation on the call's inputs -/

/-- A block that takes the call's inputs: out of BUSY and of ERROR. -/
structure TakesInputs (s : State) : Prop where
  inv : s.Inv
  notBusy : s.busy = false
  noErr : s.err = false

/-- The first `k` lengths of the call stand in `LEN_MEM`, when there are slots for all (R85, R94). -/
def LengthsLoaded (lens : List Word) (k : Nat) (s : State) : Prop :=
  lens.length ≤ s.cfg.nMax → ∀ i, i < k → s.lenMem.read i = saturateLen (lens.getD i 0#32)

/-- The block's inputs are the call's. -/
structure Loaded (lens : List Word) (mb : Word) (s : State) : Prop where
  nsym : s.nsym = BitVec.ofNat 32 lens.length
  maxbits : s.maxbits = mb
  lengths : LengthsLoaded lens lens.length s

/-- The lines are writes that, issued one after another while the block is not BUSY, leave it BUSY on the call's inputs. -/
def Starts (lens : List Word) (mb : Word) : List ScriptLine → State → Prop
  | [], s => s.busy = true ∧ Loaded lens mb s
  | line :: rest, s =>
    s.busy = false ∧ (∃ p w, line = wr p w) ∧ Starts lens mb rest (advance line.event s)

section Starts

variable {lens : List Word} {mb : Word} {s : State}

theorem TakesInputs.advance_wrLen (h : TakesInputs s) (i : SymIndex) (w : Word) :
    TakesInputs (advance (wr (.len i) w).event s) := by
  have hinv := h.inv.advance (wr (.len i) w).event
  by_cases hi : i.toNat < s.cfg.nMax
  · rw [Machine.advance_wrLen h.notBusy hi] at hinv ⊢
    exact ⟨hinv, h.notBusy, h.noErr⟩
  · rw [advance_wrLen_unmapped (Nat.not_lt.1 hi)] at hinv ⊢
    exact ⟨hinv, h.notBusy, h.noErr⟩

theorem LengthsLoaded.advance_wrLen (h : TakesInputs s) {k : Nat} (hk : k < lens.length) (hl : LengthsLoaded lens k s) :
    LengthsLoaded lens (k + 1) (advance (wr (.len (BitVec.ofNat 16 k)) (lens.getD k 0#32)).event s) := by
  intro hn i hi
  rw [advance_cfg] at hn
  have hmax := h.inv.nMax_le
  have hidx : (BitVec.ofNat 16 k).toNat = k := Nat.mod_eq_of_lt (by omega)
  rw [Machine.advance_wrLen h.notBusy (by omega), hidx]
  refine (Memory.read_write s.lenMem k i _ h.inv.lenWf).trans ?_
  split
  · rename_i heq
    rw [heq]
  · exact hl hn i (by omega)

theorem starts_loadLengths {rest : List ScriptLine}
    (hrest : ∀ t, TakesInputs t → LengthsLoaded lens lens.length t → Starts lens mb rest t) (ls : List Word) :
    ∀ (k : Nat) (t : State), lens.drop k = ls → TakesInputs t → LengthsLoaded lens k t →
      Starts lens mb (loadLengthsFrom k ls ++ rest) t := by
  induction ls with
  | nil =>
    intro k t hdrop ht hl
    have hk : lens.length ≤ k := List.drop_eq_nil_iff.1 hdrop
    exact hrest t ht fun hn i hi => hl hn i (Nat.lt_of_lt_of_le hi hk)
  | cons w ls ih =>
    intro k t hdrop ht hl
    have hk : k < lens.length := by
      by_contra hge
      rw [List.drop_eq_nil_of_le (Nat.not_lt.1 hge)] at hdrop
      cases hdrop
    rw [List.drop_eq_getElem_cons hk] at hdrop
    cases hdrop
    have hget : lens.getD k 0#32 = lens[k] := List.getD_eq_getElem _ _ hk
    exact ⟨ht.notBusy, ⟨_, _, rfl⟩, ih (k + 1) _ rfl (ht.advance_wrLen _ _) (hget ▸ hl.advance_wrLen ht hk)⟩

theorem starts_setup (h : TakesInputs s) (hl : LengthsLoaded lens lens.length s) :
    Starts lens mb (setupLines (BitVec.ofNat 32 lens.length) mb ++ [pseudoAssign]) s := by
  refine ⟨h.notBusy, ⟨_, _, rfl⟩, ?_⟩
  rw [advance_wrNsym h.notBusy]
  refine ⟨h.notBusy, ⟨_, _, rfl⟩, ?_⟩
  rw [advance_wrMaxbits (by exact h.notBusy)]
  refine ⟨h.notBusy, ⟨_, _, rfl⟩, ?_⟩
  rw [advance_assign (by exact h.notBusy) (by exact h.noErr)]
  exact ⟨rfl, rfl, rfl, hl⟩

/-- All the writes of the call, `clrstat` among them in ERROR. -/
theorem starts_callLines (hinv : s.Inv) (hb : s.busy = false) : Starts lens mb (callLines s.err lens mb) s := by
  have hload {t : State} (ht : TakesInputs t) :
      Starts lens mb (loadLengths lens ++ (setupLines (BitVec.ofNat 32 lens.length) mb ++ [pseudoAssign])) t :=
    starts_loadLengths (fun _ => starts_setup) lens 0 t rfl ht fun _ i hi => absurd hi (Nat.not_lt_zero i)
  cases he : s.err with
  | false =>
    rw [callLines, if_neg Bool.false_ne_true, List.nil_append, List.append_assoc]
    exact hload ⟨hinv, hb, he⟩
  | true =>
    have hclear := hinv.advance pseudoClrstat.event
    rw [callLines, if_pos rfl, List.append_assoc, List.append_assoc]
    refine ⟨hb, ⟨_, _, rfl⟩, hload ?_⟩
    rw [advance_clrstat hb] at hclear ⊢
    exact ⟨hclear, hb, rfl⟩

end Starts

/-! ## Where the call stands -/

/-- The block is in ERROR with the failure of `CanonAssign` on its inputs. -/
def RecordsError (s : State) : Prop :=
  ∃ cause index len, canonAssign s.cfg.nMax s.lenMem s.nsym s.maxbits = .err cause index len
    ∧ s.err = true ∧ s.errCode = errCodeOf cause ∧ s.errIndex = BitVec.ofNat 16 index ∧ s.errLen = BitVec.ofNat 8 len

/-- The codes the call has read are the first of `CODE_MEM`, when there are slots for all. -/
def CodesRead (lens codes : List Word) (s : State) : Prop :=
  lens.length ≤ s.cfg.nMax → codes = (List.range codes.length).map s.codeMem.read

/-- What holds of the block in each phase of the call. -/
def PhaseHolds (lens : List Word) (mb : Word) : CallPhase → State → Prop
  | .waiting, _ => True
  | .writing line rest, s => Starts lens mb (line :: rest) s
  | .polling, s => Loaded lens mb s ∧ (s.busy = true ∨ s.done = true ∨ RecordsError s)
  | .reading codes, s => codes.length < lens.length ∧ Loaded lens mb s ∧ s.done = true ∧ CodesRead lens codes s
  | .failing e, s => Loaded lens mb s ∧ RecordsError s ∧ e = s.errCode
  | .returned (.codes codes), s =>
    codes.length = lens.length ∧ Loaded lens mb s ∧ s.done = true ∧ CodesRead lens codes s
  | .returned (.failed e v), s => Loaded lens mb s ∧ RecordsError s ∧ e = s.errCode ∧ v = errInfoWord s

/-- The invariant of the call against the block. -/
structure CallInv (cfg : Config) (lens : List Word) (mb : Word) (c : CallState) : Prop where
  cfg_eq : c.block.cfg = cfg
  inv : c.block.Inv
  holds : PhaseHolds lens mb c.phase c.block

section CallInv

variable {cfg : Config} {lens : List Word} {mb : Word} {c : CallState} {s : State}

/-- A step brings its own input: what else was to come does not matter. -/
theorem advance_of_schedule (e : Event) (s : State) (sch : List Event) :
    advance e { s with schedule := sch } = advance e s :=
  Host.Outcome.next.inj ((step_advance e { s with schedule := sch }).symm.trans (step_advance e s))

theorem Starts.of_schedule {ls : List ScriptLine} (h : Starts lens mb ls s) (sch : List Event) :
    Starts lens mb ls { s with schedule := sch } := by
  cases ls with
  | nil => exact ⟨h.1, h.2.nsym, h.2.maxbits, h.2.lengths⟩
  | cons line rest =>
    obtain ⟨hb, hwr, hrest⟩ := h
    exact ⟨hb, hwr, (advance_of_schedule line.event s sch).symm ▸ hrest⟩

/-- No phase speaks of the inputs still to come. -/
theorem PhaseHolds.of_schedule {p : CallPhase} (h : PhaseHolds lens mb p s) (sch : List Event) :
    PhaseHolds lens mb p { s with schedule := sch } := by
  match p, h with
  | .waiting, h => exact h
  | .writing _ _, h => exact Starts.of_schedule h sch
  | .polling, ⟨⟨hn, hm, hl⟩, h⟩ => exact ⟨⟨hn, hm, hl⟩, h⟩
  | .reading _, ⟨hk, ⟨hn, hm, hl⟩, h⟩ => exact ⟨hk, ⟨hn, hm, hl⟩, h⟩
  | .failing _, ⟨⟨hn, hm, hl⟩, h⟩ => exact ⟨⟨hn, hm, hl⟩, h⟩
  | .returned (.codes _), ⟨hk, ⟨hn, hm, hl⟩, h⟩ => exact ⟨hk, ⟨hn, hm, hl⟩, h⟩
  | .returned (.failed _ _), ⟨⟨hn, hm, hl⟩, h⟩ => exact ⟨⟨hn, hm, hl⟩, h⟩

theorem Loaded.nsym_toNat (h : Loaded lens mb s) (hn : lens.length < 2 ^ 32) : s.nsym.toNat = lens.length := by
  rw [h.nsym]
  exact Nat.mod_eq_of_lt hn

theorem Loaded.answered (h : Loaded lens mb s) (r : Response) : Loaded lens mb (answered r s) :=
  ⟨h.nsym, h.maxbits, h.lengths⟩

theorem RecordsError.not_done (h : RecordsError s) (hinv : s.Inv) : s.busy = false ∧ s.done = false := by
  obtain ⟨-, -, -, -, he, -⟩ := h
  obtain ⟨-, hbe, hde⟩ := hinv.exclusive
  exact ⟨by simpa [he] using hbe, by simpa [he] using hde⟩

/-- A BUSY block meets the call in one of its two waits. -/
theorem PhaseHolds.wait_of_busy {p : CallPhase} (h : PhaseHolds lens mb p s) (hinv : s.Inv) (hb : s.busy = true) :
    p = .waiting ∨ (p = .polling ∧ Loaded lens mb s) := by
  have hnd : s.done ≠ true := by simp [(hinv.only_busy hb).1]
  have hnr : ¬ RecordsError s := fun hr => by simp [(hr.not_done hinv).1] at hb
  match p, h with
  | .waiting, _ => exact .inl rfl
  | .writing _ _, ⟨hb', _⟩ => simp [hb'] at hb
  | .polling, ⟨hl, _⟩ => exact .inr ⟨rfl, hl⟩
  | .reading _, ⟨_, _, hd, _⟩ => exact absurd hd hnd
  | .failing _, ⟨_, hr, _⟩ => exact absurd hr hnr
  | .returned (.codes _), ⟨_, _, hd, _⟩ => exact absurd hd hnd
  | .returned (.failed _ _), ⟨_, hr, _⟩ => exact absurd hr hnr

theorem Loaded.complete (h : Loaded lens mb s) : Loaded lens mb (complete s) := by
  unfold Machine.complete
  split <;> exact ⟨h.nsym, h.maxbits, h.lengths⟩

theorem complete_done_or_records (s : State) : (complete s).done = true ∨ RecordsError (complete s) := by
  cases hc : canonAssign s.cfg.nMax s.lenMem s.nsym s.maxbits with
  | ok codes bl nc => exact .inl (by rw [complete_of_ok hc]; rfl)
  | err cause index len =>
    rw [complete_of_err hc]
    exact .inr ⟨cause, index, len, hc, rfl, rfl, rfl, rfl⟩

/-- The sequencer's turn ends a wait, and nothing else. -/
theorem PhaseHolds.sequencerTurn {p : CallPhase} (h : PhaseHolds lens mb p s) (hinv : s.Inv) :
    PhaseHolds lens mb p (sequencerTurn s) := by
  cases hb : s.busy with
  | false => rwa [sequencerTurn_of_not_busy hb]
  | true =>
    rw [sequencerTurn_of_busy hb]
    obtain rfl | ⟨rfl, hl⟩ := h.wait_of_busy hinv hb
    · trivial
    · exact ⟨hl.complete, .inr (complete_done_or_records s)⟩

theorem phaseHolds_nextWrite {ls : List ScriptLine} (h : Starts lens mb ls s) :
    PhaseHolds lens mb (nextWrite ls) s := by
  cases ls with
  | nil => exact ⟨h.2, .inl h.1⟩
  | cons line rest => exact h

theorem phaseHolds_nextRead {codes : List Word} (hk : codes.length ≤ lens.length) (hl : Loaded lens mb s)
    (hd : s.done = true) (hc : CodesRead lens codes s) : PhaseHolds lens mb (nextRead lens.length codes) s := by
  unfold nextRead
  split
  · exact ⟨‹_›, hl, hd, hc⟩
  · exact ⟨by omega, hl, hd, hc⟩

/-- The code a read of `CODE[i]` shows in DONE is the next of `CODE_MEM`. -/
theorem CodesRead.append {codes : List Word} {v : Word} (hc : CodesRead lens codes s) (hinv : s.Inv)
    (hk : codes.length < lens.length) (hl : Loaded lens mb s) (hd : s.done = true)
    (hv : (BitVec.ofNat 16 codes.length).toNat < s.cfg.nMax → v = gatedCode (BitVec.ofNat 16 codes.length) s) :
    CodesRead lens (codes ++ [v]) s := by
  intro hn
  have hmax := hinv.nMax_le
  have hidx : (BitVec.ofNat 16 codes.length).toNat = codes.length := Nat.mod_eq_of_lt (by omega)
  have hnsym := hl.nsym_toNat (by omega)
  rw [hidx] at hv
  rw [hv (by omega), gatedCode, hidx, if_pos ⟨hd, by omega⟩, List.length_append, List.length_singleton,
    List.range_succ, List.map_append, ← hc hn, List.map_singleton]

theorem CallInv.start (hinv : s.Inv) : CallInv s.cfg lens mb { phase := .waiting, block := s } :=
  ⟨rfl, hinv, trivial⟩

theorem CallInv.sequencer (h : CallInv cfg lens mb c) : CallInv cfg lens mb (callTurn lens mb c .sequencer) where
  cfg_eq := (advance_cfg _ _).trans h.cfg_eq
  inv := h.inv.advance .sequencer
  holds := (h.holds.of_schedule []).sequencerTurn (h.inv.of_schedule [])

theorem CallInv.of_answered {p : CallPhase} {r : Response} (h : CallInv cfg lens mb c)
    (hp : PhaseHolds lens mb p (answered r c.block)) :
    CallInv cfg lens mb { phase := p, block := answered r c.block } :=
  ⟨h.cfg_eq, h.inv.answered r, hp⟩

theorem CallInv.host (h : CallInv cfg lens mb c) : CallInv cfg lens mb (callTurn lens mb c .host) := by
  have hholds := h.holds
  cases hp : c.phase with
  | waiting =>
    obtain ⟨r, ht⟩ := callTurn_waiting (lens := lens) (mb := mb) hp
    rw [ht]
    refine h.of_answered ?_
    split
    · trivial
    · rename_i hb
      have hb : c.block.busy = false := by simpa using hb
      exact phaseHolds_nextWrite (starts_callLines (h.inv.answered r) hb)
  | writing line rest =>
    rw [hp] at hholds
    obtain ⟨-, ⟨p, w, rfl⟩, hrest⟩ := hholds
    rw [callTurn_writing hp]
    exact ⟨(advance_cfg _ _).trans h.cfg_eq, h.inv.advance _, phaseHolds_nextWrite hrest⟩
  | polling =>
    rw [hp] at hholds
    obtain ⟨hl, hend⟩ := hholds
    obtain ⟨r, ht⟩ := callTurn_polling (lens := lens) (mb := mb) hp
    rw [ht]
    refine h.of_answered ?_
    split
    · exact ⟨hl.answered r, hend⟩
    · rename_i hb
      split
      · rename_i hd
        exact phaseHolds_nextRead (Nat.zero_le _) (hl.answered r) hd fun _ => rfl
      · rename_i hd
        exact ⟨hl.answered r, (hend.resolve_left hb).resolve_left hd, rfl⟩
  | reading codes =>
    rw [hp] at hholds
    obtain ⟨hk, hl, hd, hc⟩ := hholds
    obtain ⟨v, r, ht, hv⟩ := callTurn_reading (lens := lens) (mb := mb) hp
    rw [ht]
    exact h.of_answered
      (phaseHolds_nextRead (by simpa using hk) (hl.answered r) hd (hc.append h.inv hk hl hd hv))
  | failing e =>
    rw [hp] at hholds
    obtain ⟨hl, hr, he⟩ := hholds
    obtain ⟨r, ht⟩ := callTurn_failing (lens := lens) (mb := mb) hp
    rw [ht]
    exact h.of_answered (p := .returned _) ⟨hl.answered r, hr, he, rfl⟩
  | returned r =>
    rw [callTurn_returned hp]
    exact h

theorem CallInv.foldl (turns : List Agent) :
    ∀ c, CallInv cfg lens mb c → CallInv cfg lens mb (turns.foldl (callTurn lens mb) c) := by
  induction turns with
  | nil => exact fun _ h => h
  | cons a turns ih =>
    intro c h
    cases a with
    | host => exact ih _ h.host
    | sequencer => exact ih _ h.sequencer

/-! ## What the call returns -/

theorem CallInv.not_busy_of_returned {r : CallResult} (h : CallInv cfg lens mb c) (hp : c.phase = .returned r) :
    c.block.busy = false := by
  by_contra hb
  obtain hw | ⟨hw, -⟩ := h.holds.wait_of_busy h.inv (by simpa using hb)
  · cases hw.symm.trans hp
  · cases hw.symm.trans hp

theorem CallInv.loaded_of_returned {r : CallResult} (h : CallInv cfg lens mb c) (hp : c.phase = .returned r) :
    Loaded lens mb c.block := by
  have hholds := h.holds
  rw [hp] at hholds
  match r, hholds with
  | .codes _, ⟨_, hl, _⟩ => exact hl
  | .failed _ _, ⟨hl, _⟩ => exact hl

/-- A call whose operation fails has failed with the cause and its details. -/
theorem CallInv.returned_of_err {r : CallResult} (h : CallInv cfg lens mb c) (hp : c.phase = .returned r)
    {cause : ErrCause} {index len : Nat}
    (hr : canonAssign c.block.cfg.nMax c.block.lenMem c.block.nsym c.block.maxbits = .err cause index len) :
    r = .failed (errCodeOf cause) (0#8 ++ BitVec.ofNat 8 len ++ BitVec.ofNat 16 index)
      ∧ visibleState c.block = .error := by
  have hholds := h.holds
  rw [hp] at hholds
  match r, hholds with
  | .codes _, ⟨_, _, hd, _⟩ =>
    obtain ⟨_, _, _, hok, -⟩ := h.inv.results hd
    cases hr.symm.trans hok
  | .failed e v, ⟨_, ⟨_, _, _, hr', he, hcode, hindex, hlen⟩, hcode', hinfo⟩ =>
    cases hr.symm.trans hr'
    exact ⟨by rw [hcode', hcode, hinfo, errInfoWord, hindex, hlen], (visibleState_eq_error_iff h.inv.oneVisible).2 he⟩

/-- A call whose operation succeeds has returned the codes, when there are slots for all. -/
theorem CallInv.returned_of_ok {r : CallResult} (h : CallInv cfg lens mb c) (hp : c.phase = .returned r)
    (hn : lens.length ≤ c.block.cfg.nMax) {codes : List Nat} {bl nc : LenTable}
    (hr : canonAssign c.block.cfg.nMax c.block.lenMem c.block.nsym c.block.maxbits = .ok codes bl nc) :
    visibleState c.block = .done ∧ ∃ ws, r = .codes ws ∧ ws.map BitVec.toNat = codes := by
  have hholds := h.holds
  rw [hp] at hholds
  match r, hholds with
  | .failed _ _, ⟨_, ⟨_, _, _, hr', _⟩, _⟩ => cases hr.symm.trans hr'
  | .codes ws, ⟨hlen, hl, hd, hc⟩ =>
    obtain ⟨hb, he⟩ := h.inv.only_done hd
    refine ⟨by simp [visibleState, hb, hd, he], ws, rfl, ?_⟩
    obtain ⟨codes', bl', nc', hr', hcodes, -⟩ := h.inv.results hd
    cases hr.symm.trans hr'
    have hmax := h.inv.nMax_le
    have hnsym := hl.nsym_toNat (by omega)
    have hcl := canonAssign_codes_length hr
    rw [hc hn, List.map_map]
    refine List.ext_getElem (by simp; omega) fun i hi hi' => ?_
    have hget := hcodes i (by omega)
    rw [List.getD_eq_getElem _ _ hi'] at hget
    simpa using hget

/-- The lengths the operation reads are the call's, saturated. -/
theorem Loaded.read_toNat (h : Loaded lens mb s) (hn : lens.length ≤ s.cfg.nMax) {i : Nat} (hi : i < lens.length) :
    (s.lenMem.read i).toNat = min (lens.getD i 0#32).toNat 255 := by
  rw [h.lengths hn i hi, saturateLen_toNat]

/-- Lengths up to 15 are loaded as they are. -/
theorem Loaded.lengthsOf_eq (h : Loaded lens mb s) (hn : lens.length ≤ s.cfg.nMax)
    (hle : ∀ w ∈ lens, w.toNat ≤ 15) : lengthsOf s.lenMem lens.length = lens.map BitVec.toNat := by
  refine List.ext_getElem (by simp) fun i hi hi' => ?_
  have hi : i < lens.length := by simpa using hi
  have hread := h.read_toNat hn hi
  have hw := hle _ (List.getElem_mem hi)
  rw [List.getD_eq_getElem _ _ hi] at hread
  simp only [lengthsOf, List.getElem_map, List.getElem_range, hread]
  omega

end CallInv

/-! ## The call returns -/

/-- How many of the sequencer's turns, each after a turn of the host's, a call of `n` lengths has left at most. -/
def phaseRank (n : Nat) (busy : Bool) : CallPhase → Nat
  | .waiting => 2 * n + 8 + busy.toNat
  | .writing _ rest => n + 4 + rest.length
  | .polling => n + 2 + busy.toNat
  | .reading codes => n - codes.length
  | .failing _ => 1
  | .returned _ => 0

def CallState.rank (n : Nat) (c : CallState) : Nat := phaseRank n c.block.busy c.phase

/-- The call waits for the sequencer. -/
def AwaitsSequencer (c : CallState) : Prop := c.block.busy = true ∧ (c.phase = .waiting ∨ c.phase = .polling)

theorem phaseRank_nextWrite (n : Nat) (busy : Bool) (ls : List ScriptLine) :
    phaseRank n busy (nextWrite ls) ≤ n + 3 + ls.length := by
  cases ls with
  | nil =>
    have := busy.toNat_lt
    simp only [nextWrite, phaseRank, List.length_nil]
    omega
  | cons line rest =>
    simp only [nextWrite, phaseRank, List.length_cons]
    omega

theorem phaseRank_nextRead (n : Nat) (busy : Bool) (codes : List Word) :
    phaseRank n busy (nextRead n codes) ≤ n - codes.length := by
  unfold nextRead
  split
  · exact le_rfl
  · exact Nat.zero_le _

theorem loadLengthsFrom_length (lens : List Word) : ∀ k, (loadLengthsFrom k lens).length = lens.length := by
  induction lens with
  | nil => exact fun _ => rfl
  | cons w lens ih => exact fun k => congrArg (· + 1) (ih (k + 1))

theorem callLines_length_le (err : Bool) (lens : List Word) (mb : Word) :
    (callLines err lens mb).length ≤ lens.length + 4 := by
  cases err <;> simp [callLines, loadLengths, loadLengthsFrom_length, setupLines]

section Rank

variable {cfg : Config} {lens : List Word} {mb : Word} {c : CallState}

/-- A turn of the host brings the call nearer its end, or finds it waiting for the sequencer. -/
theorem CallInv.rank_host (h : CallInv cfg lens mb c) :
    (callTurn lens mb c .host).rank lens.length ≤ c.rank lens.length - 1
      ∨ (AwaitsSequencer (callTurn lens mb c .host)
        ∧ (callTurn lens mb c .host).rank lens.length ≤ c.rank lens.length) := by
  have hholds := h.holds
  unfold CallState.rank
  cases hp : c.phase with
  | waiting =>
    obtain ⟨r, ht⟩ := callTurn_waiting (lens := lens) (mb := mb) hp
    rw [ht]
    cases hb : c.block.busy with
    | true => exact .inr ⟨⟨hb, .inl rfl⟩, (congrArg (phaseRank _ · .waiting) hb).le⟩
    | false =>
      have hnext := phaseRank_nextWrite lens.length (answered r c.block).busy (callLines c.block.err lens mb)
      have hlen := callLines_length_le c.block.err lens mb
      refine .inl (hnext.trans ?_)
      simp only [phaseRank, Bool.toNat_false]
      omega
  | writing line rest =>
    rw [hp] at hholds
    obtain ⟨-, ⟨p, w, rfl⟩, -⟩ := hholds
    rw [callTurn_writing hp]
    refine .inl ((phaseRank_nextWrite _ _ rest).trans ?_)
    simp only [phaseRank]
    omega
  | polling =>
    obtain ⟨r, ht⟩ := callTurn_polling (lens := lens) (mb := mb) hp
    rw [ht]
    cases hb : c.block.busy with
    | true => exact .inr ⟨⟨hb, .inr rfl⟩, (congrArg (phaseRank _ · .polling) hb).le⟩
    | false =>
      refine .inl ?_
      cases hd : c.block.done with
      | true =>
        refine (phaseRank_nextRead _ _ []).trans ?_
        simp only [phaseRank, List.length_nil, Bool.toNat_false]
        omega
      | false => simp [phaseRank]
  | reading codes =>
    obtain ⟨v, r, ht, -⟩ := callTurn_reading (lens := lens) (mb := mb) hp
    rw [ht]
    refine .inl ((phaseRank_nextRead _ _ _).trans ?_)
    simp only [phaseRank, List.length_append, List.length_singleton]
    omega
  | failing e =>
    obtain ⟨r, ht⟩ := callTurn_failing (lens := lens) (mb := mb) hp
    rw [ht]
    exact .inl (Nat.zero_le _)
  | returned r =>
    rw [callTurn_returned hp, hp]
    exact .inl (Nat.zero_le _)

/-- Turns of the host, at least one. -/
theorem CallInv.rank_hosts (h : CallInv cfg lens mb c) (g : Nat) :
    ((List.replicate (g + 1) Agent.host).foldl (callTurn lens mb) c).rank lens.length ≤ c.rank lens.length - 1
      ∨ (AwaitsSequencer ((List.replicate (g + 1) Agent.host).foldl (callTurn lens mb) c)
        ∧ ((List.replicate (g + 1) Agent.host).foldl (callTurn lens mb) c).rank lens.length ≤ c.rank lens.length) := by
  induction g with
  | zero => exact h.rank_host
  | succ g ih =>
    have hmid := CallInv.foldl (List.replicate (g + 1) Agent.host) c h
    rw [List.replicate_succ', List.foldl_append, List.foldl_cons, List.foldl_nil]
    generalize (List.replicate (g + 1) Agent.host).foldl (callTurn lens mb) c = d at ih hmid
    obtain hlt | ⟨hw, hle⟩ := hmid.rank_host
    · exact .inl (by omega)
    · exact ih.imp (fun hlt => by omega) fun ⟨_, hle'⟩ => ⟨hw, by omega⟩

/-- The sequencer's turn takes the call no further from its end, and ends a wait. -/
theorem rank_sequencer (c : CallState) (n : Nat) :
    (callTurn lens mb c .sequencer).rank n ≤ c.rank n
      ∧ (AwaitsSequencer c → (callTurn lens mb c .sequencer).rank n ≤ c.rank n - 1) := by
  have hb : (callTurn lens mb c .sequencer).block.busy = false :=
    (sequencerTurn_cases { c.block with schedule := [] }).not_busy
  unfold CallState.rank
  rw [hb, callTurn_sequencer_phase]
  constructor
  · cases c.phase <;> simp [phaseRank]
  · rintro ⟨hb, hp | hp⟩
    · simp [phaseRank, hb, hp]
    · simp [phaseRank, hb, hp]

theorem CallInv.rank_fairTurns (gaps : List Nat) (hgaps : ∀ g ∈ gaps, 1 ≤ g) :
    ∀ c, CallInv cfg lens mb c →
      ((fairTurns gaps).foldl (callTurn lens mb) c).rank lens.length ≤ c.rank lens.length - gaps.length := by
  induction gaps with
  | nil => exact fun _ _ => le_rfl
  | cons g gaps ih =>
    intro c h
    obtain ⟨hg, hgaps'⟩ := List.forall_mem_cons.1 hgaps
    obtain ⟨g, rfl⟩ := Nat.exists_eq_add_of_le' hg
    have hd := CallInv.foldl (List.replicate (g + 1) Agent.host) c h
    have hhosts := h.rank_hosts g
    rw [fairTurns, List.flatMap_cons, List.foldl_append, List.foldl_append, List.foldl_cons, List.foldl_nil]
    generalize (List.replicate (g + 1) Agent.host).foldl (callTurn lens mb) c = d at hd hhosts
    have hrest := ih hgaps' _ hd.sequencer
    obtain ⟨hseq, hwait⟩ := rank_sequencer (lens := lens) (mb := mb) d lens.length
    rw [fairTurns] at hrest
    rw [List.length_cons]
    obtain hlt | ⟨hw, hle⟩ := hhosts
    · omega
    · have := hwait hw
      omega

theorem CallInv.returned_of_rank_zero (h : CallInv cfg lens mb c) (hz : c.rank lens.length = 0) :
    ∃ r, c.phase = .returned r := by
  have hholds := h.holds
  unfold CallState.rank at hz
  cases hp : c.phase with
  | returned r => exact ⟨r, rfl⟩
  | reading codes =>
    rw [hp] at hz hholds
    obtain ⟨hk, -⟩ := hholds
    simp only [phaseRank] at hz
    omega
  | _ => simp [hp, phaseRank] at hz

end Rank

/-- Settles O57: the call's invariant at its return, with the result of `CanonAssign` on the call's inputs in each case; the
rank of the call is at most `2k + 9` at its start. -/
theorem callReturnsCanonicalCodes : Obligations.CallReturnsCanonicalCodes := by
  intro s lens mb hinv
  have hstart := CallInv.start (lens := lens) (mb := mb) hinv
  refine ⟨fun turns c r hrun hp => ?_, fun gaps hgaps hlen => ?_⟩
  · have h : CallInv s.cfg lens mb c := hrun ▸ hstart.foldl turns
    have hl := h.loaded_of_returned hp
    have hmax := hinv.nMax_le
    obtain ⟨hmany, hmb, hlong, -⟩ :=
      errorPriority c.block.cfg.nMax c.block.lenMem c.block.nsym c.block.maxbits
    rw [hl.maxbits] at hmb hlong
    rw [← h.cfg_eq] at hmax ⊢
    refine ⟨h.inv, h.not_busy_of_returned hp, fun hn hlt => ?_, fun hn hmb' hle => ?_, fun hn hgt => ?_,
      fun hn hmb' i hi hgt hbefore => ?_⟩
    · have hnsym := hl.nsym_toNat hlt
      exact h.returned_of_err hp (hmany (by omega))
    · have hnsym := hl.nsym_toNat (by omega)
      have hlens := hl.lengthsOf_eq hn fun w hw => (hle w hw).trans hmb'
      have hr : canonAssign c.block.cfg.nMax c.block.lenMem c.block.nsym c.block.maxbits
          = assignLengths (lens.map BitVec.toNat) mb.toNat := by
        rw [← hlens, ← hnsym, ← hl.maxbits]
        refine canonAssign_of_legal (by omega) (hl.maxbits ▸ hmb') ?_
        rw [hnsym, hlens, hl.maxbits]
        simpa using hle
      obtain ⟨hdone, hcodes⟩ := h.returned_of_ok hp hn hr
      exact ⟨hdone, hnsym, hcodes⟩
    · have hnsym := hl.nsym_toNat (by omega)
      exact h.returned_of_err hp (hl.maxbits ▸ hmb (by omega) hgt)
    · have hnsym := hl.nsym_toNat (by omega)
      have hread := hl.read_toNat hn hi
      have hr := hlong (by omega) hmb' i (by omega) (by omega) fun j hj => by
        rw [hl.read_toNat hn (hj.trans hi)]
        exact (Nat.min_le_left _ _).trans (hbefore j hj)
      rw [hread, ← hl.maxbits] at hr
      exact h.returned_of_err hp hr
  · have hend := CallInv.rank_fairTurns gaps hgaps _ hstart
    have hrank : CallState.rank lens.length { phase := .waiting, block := s } ≤ 2 * lens.length + 9 :=
      Nat.add_le_add_left (Nat.le_of_lt_succ s.busy.toNat_lt) _
    exact (hstart.foldl (fairTurns gaps)).returned_of_rank_zero (by omega)

end Sys2Proof.Machine

/-! # The interrupt output (R213, R214) -/

namespace Sys2Proof.Machine

section Irq

variable {s t : State} {i : Instr}

theorem irq_eq_true_iff : irq s = true ↔ s.irqEn = true ∧ (s.done || s.err) = true := Bool.and_eq_true_iff

/-- `irq` shows nothing but `DONE` and `ERR`, whatever `EN` is (R213). -/
theorem irq_of_no_status (hd : s.done = false) (he : s.err = false) : irq s = false := by
  simp [irq, hd, he]

@[simp] theorem irq_respond (r : Response) (s : State) : irq (respond r s) = irq s := rfl

/-- A state that interrupts is DONE or ERROR, so it is not BUSY. -/
theorem State.Inv.not_busy_of_irq (h : s.Inv) (hirq : irq s = true) : s.busy = false := by
  obtain ⟨-, hstatus⟩ := irq_eq_true_iff.1 hirq
  cases hb : s.busy with
  | false => rfl
  | true =>
    obtain ⟨hd, he⟩ := h.only_busy hb
    simp [hd, he] at hstatus

/-- The `IRQ_EN` row masks the status with the written bit and keeps the status (R115). -/
theorem irq_of_exec_wrIrqEn {w : Word} (h : exec (.wrIrqEn w) s = .next t) :
    irq t = (w.getLsbD 0 && (s.done || s.err)) ∧ t.done = s.done ∧ t.err = s.err := by
  cases h
  exact ⟨rfl, rfl, rfl⟩

/-- A row that writes an input, in a block that is not BUSY, stores its operand and clears `DONE` (R120, R123). -/
theorem exec_writesInput (hb : s.busy = false) (hi : writesInput i = true) (hwf : i.wellFormed s.cfg.nMax = true) :
    ∃ stored, exec i s = .next (answerWrite (inputWritten stored)) ∧ stored.err = s.err := by
  cases i
  case wrNsym w => exact ⟨_, (exec_wrNsym w s).trans (next_answerWrite_congr (writeInput_of_not_busy hb)), rfl⟩
  case wrMaxbits w => exact ⟨_, (exec_wrMaxbits w s).trans (next_answerWrite_congr (writeInput_of_not_busy hb)), rfl⟩
  case wrLen slot w =>
    exact ⟨_, (exec_wrLen (of_decide_eq_true hwf) w).trans (next_answerWrite_congr (writeInput_of_not_busy hb)), rfl⟩
  all_goals cases hi

/-- A read only puts its answer on the port, refused or not (R66). -/
theorem exec_isRead (hi : isRead i = true) (s : State) :
    ∃ v resp, exec i s = .next (respond (.read v resp) s) := by
  obtain ⟨p, rfl⟩ | ⟨off, rfl | rfl⟩ := isRead_cases hi
  · exact exec_readRow p s
  · exact ⟨_, _, rfl⟩
  · exact ⟨_, _, rfl⟩

end Irq

/-- Settles O49: the `IRQ_EN` row changes the mask alone, a read changes nothing, and each event of R214 leaves `DONE` and
`ERR` both 0 (a state with `irq = 1` is not BUSY, and a DONE state has `ERR = 0`). -/
theorem irqFollowsItsCauses : Obligations.IrqFollowsItsCauses := by
  intro s hinv hirq
  have hb := hinv.not_busy_of_irq hirq
  obtain ⟨-, hstatus⟩ := irq_eq_true_iff.1 hirq
  refine ⟨fun t h => irq_of_exec_wrIrqEn h, fun t h => ?_, fun t hd h => ?_, fun t i hd hi hwf h => ?_, rfl,
    fun t i hi h => ?_, fun t w h => ?_⟩
  · cases (exec_clrstat hb).symm.trans h
    exact irq_of_no_status rfl rfl
  · have he := (hinv.only_done hd).2
    rw [exec_assign hb, commandAssign_of_no_err he] at h
    cases h
    exact irq_of_no_status rfl he
  · obtain ⟨stored, hexec, herr⟩ := exec_writesInput hb hi hwf
    cases hexec.symm.trans h
    exact irq_of_no_status rfl (herr.trans (hinv.only_done hd).2)
  · obtain ⟨v, resp, hexec⟩ := exec_isRead hi s
    cases hexec.symm.trans h
    rwa [irq_respond]
  · obtain ⟨hval, -⟩ := irq_of_exec_wrIrqEn h
    rw [hval, hstatus, Bool.and_true]

end Sys2Proof.Machine

/-! # Reset, and the end of a running operation (R231, R232, R246) -/

namespace Sys2Proof.Machine

/-- Settles O50: the step is the reset, whose memories list nothing and whose registers are all 0. -/
theorem resetClearsEverything : Obligations.ResetClearsEverything := by
  intro s rest hs
  have hzero (L : Nat) : (Vector.replicate Config.nl 0#32).getD L 0#32 = 0#32 := by
    by_cases hL : L < Config.nl <;> simp [Vector.getD, hL]
  exact ⟨_, step_of_schedule_reset hs, rfl, rfl, rfl, rfl, rfl, rfl, rfl, rfl, rfl, rfl, rfl, rfl, rfl, fun _ => rfl,
    fun _ => rfl, fun L => ⟨hzero L, hzero L⟩, rfl, rfl⟩

/-! ## A run consumes its schedule -/

theorem TurnEffect.schedule_eq {s t : State} (he : TurnEffect s t) : t.schedule = s.schedule := by
  cases he <;> rfl

theorem step_schedule {s t : State} (h : step s = .next t) : t.schedule = s.schedule.tail := by
  obtain ⟨hs, he⟩ | ⟨rest, hs, he⟩ | ⟨rest, hs, rfl⟩ | ⟨tr, rest, r, s', hs, -, rfl, he⟩ := step_cases h
  · rw [he.schedule_eq, hs, List.tail_nil]
  · rw [he.schedule_eq, hs, List.tail_cons]
  · rw [resetBlock_schedule, hs, List.tail_cons]
  · rw [respond_schedule, he.schedule_eq, hs, List.tail_cons]

/-- The step after the last input is the sequencer's turn, so it leaves the block not BUSY (log 3), whatever the inputs
were. -/
theorem run_past_schedule_not_busy (s : State) :
    ∃ t, Host.Core.run core (s.schedule.length + 1) s = .next t ∧ State.busy t = false := by
  obtain ⟨u, hu⟩ := everyStepAnswersNext s
  rw [run_succ_of_step hu]
  induction hs : s.schedule generalizing s u with
  | nil =>
    cases (step_of_schedule_nil hs).symm.trans hu
    exact ⟨_, rfl, (sequencerTurn_cases s).not_busy⟩
  | cons e rest ih =>
    obtain ⟨v, hv⟩ := everyStepAnswersNext u
    rw [List.length_cons, run_succ_of_step hv]
    exact ih u v hv (by rw [step_schedule hu, hs, List.tail_cons])

/-- Settles O51: the step after the last input leaves BUSY, if none before it has. -/
theorem busyBlockCompletes : Obligations.BusyBlockCompletes := by
  intro s _ _
  obtain ⟨t, ht, hb⟩ := run_past_schedule_not_busy s
  exact ⟨_, t, Nat.le_refl _, ht, hb⟩

end Sys2Proof.Machine

/-! # The reference sequencer (R243, R244)

`FinAfter k q r` says that the sequencer is in FIN, holding the outcome `r`, `k` cycles after `q`. It is proved phase by
phase, from ASGN back to CHECK, each by induction on the cycles the phase has left, in step with the loop of
`CanonAssign` it carries out. FIN then delivers the outcome, and no cycle before it delivers any. -/

namespace Sys2Proof.Machine

/-! ## What the phases do with the working registers -/

/-- What FIN delivers. -/
def RefSeq.outcome (q : RefSeq) : CanonResult :=
  match q.failure with
  | some (cause, index, len) => .err cause index len
  | none => .ok q.codes q.bl q.nc

theorem RefSeq.outcome_of_no_failure {q : RefSeq} (hf : q.failure = none) : q.outcome = .ok q.codes q.bl q.nc := by
  rw [outcome, hf]

/-- COUNT of one symbol of length `len` (R163). -/
def RefSeq.countOne (len : Nat) (q : RefSeq) : RefSeq := { q with bl := q.bl.put len (q.bl.entry len + 1) }

/-- GEN of one length (R164). -/
def RefSeq.genOne (q : RefSeq) : RefSeq :=
  { q with
    code := (q.code + q.bl.entry (q.index - 1)) <<< 1
    nc := q.nc.put q.index ((q.code + q.bl.entry (q.index - 1)) <<< 1) }

/-- ASGN of one symbol of length `len` (R165, R166). -/
def RefSeq.assignOne (len : Nat) (q : RefSeq) : RefSeq :=
  { q with codes := q.codes ++ (assignCodes [len] q.nc).1, nc := (assignCodes [len] q.nc).2 }

section Reference

variable {nMax : Nat} {mem : Memory 8} {nsym maxbits : Word} {q : RefSeq}

/-! ## One cycle, by the phase -/

theorem refCycle_idle (hp : q.phase = .idle) : refCycle nMax mem nsym maxbits q = q := by
  rw [refCycle, hp]

theorem refCycle_check (hp : q.phase = .check) :
    refCycle nMax mem nsym maxbits q =
      if nMax < nsym.toNat then refFail .nsymRange 0 0 q
      else if Config.mbMax < maxbits.toNat then refFail .maxbitsRange 0 0 q
      else refEnterCount nsym.toNat maxbits.toNat q := by
  rw [refCycle, hp]

theorem refCycle_count (hp : q.phase = .count) :
    refCycle nMax mem nsym maxbits q =
      if maxbits.toNat < (mem.read q.index).toNat then refFail .lenRange q.index (mem.read q.index).toNat q
      else if q.index + 1 < nsym.toNat then { q.countOne (mem.read q.index).toNat with index := q.index + 1 }
      else refEnterGen nsym.toNat maxbits.toNat (q.countOne (mem.read q.index).toNat) := by
  cases q
  cases hp
  rfl

theorem refCycle_count_of_le (hp : q.phase = .count) (hle : (mem.read q.index).toNat ≤ maxbits.toNat) :
    refCycle nMax mem nsym maxbits q =
      if q.index + 1 < nsym.toNat then { q.countOne (mem.read q.index).toNat with index := q.index + 1 }
      else refEnterGen nsym.toNat maxbits.toNat (q.countOne (mem.read q.index).toNat) :=
  (refCycle_count hp).trans (if_neg (Nat.not_lt.2 hle))

theorem refCycle_gen (hp : q.phase = .gen) :
    refCycle nMax mem nsym maxbits q =
      if q.index < maxbits.toNat then { q.genOne with index := q.index + 1 } else refEnterAsgn nsym.toNat q.genOne := by
  cases q
  cases hp
  rfl

theorem refCycle_asgn (hp : q.phase = .asgn) :
    refCycle nMax mem nsym maxbits q =
      if q.index + 1 < nsym.toNat then { q.assignOne (mem.read q.index).toNat with index := q.index + 1 }
      else { q.assignOne (mem.read q.index).toNat with phase := .fin } := by
  by_cases hlen : (mem.read q.index).toNat = 0 <;> simp [refCycle, hp, RefSeq.assignOne, assignCodes, hlen]

theorem refCycle_fin (hp : q.phase = .fin) :
    refCycle nMax mem nsym maxbits q = { q with phase := .idle, result := some q.outcome } := by
  rw [refCycle, hp, RefSeq.outcome]
  cases q.failure <;> rfl

/-! ## The one delivery -/

theorem refEnterAsgn_result (n : Nat) (q : RefSeq) : (refEnterAsgn n q).result = q.result := by
  unfold refEnterAsgn
  split <;> rfl

theorem refEnterGen_result (n mb : Nat) (q : RefSeq) : (refEnterGen n mb q).result = q.result := by
  unfold refEnterGen
  split
  · exact refEnterAsgn_result n _
  · rfl

theorem refEnterCount_result (n mb : Nat) (q : RefSeq) : (refEnterCount n mb q).result = q.result := by
  unfold refEnterCount
  split
  · exact refEnterGen_result n mb q
  · rfl

theorem refCycle_result (hp : q.phase ≠ .fin) : (refCycle nMax mem nsym maxbits q).result = q.result := by
  cases hq : q.phase with
  | fin => exact absurd hq hp
  | idle => rw [refCycle_idle hq]
  | check =>
    rw [refCycle_check hq]
    split_ifs
    · rfl
    · rfl
    · exact refEnterCount_result _ _ q
  | count =>
    rw [refCycle_count hq]
    split_ifs
    · rfl
    · rfl
    · exact refEnterGen_result _ _ _
  | gen =>
    rw [refCycle_gen hq]
    split_ifs
    · rfl
    · exact refEnterAsgn_result _ _
  | asgn =>
    rw [refCycle_asgn hq]
    split_ifs <;> rfl

/-- A sequencer that is not IDLE has delivered nothing: FIN alone delivers, and IDLE follows it for good. -/
theorem refAfter_result_of_not_idle :
    ∀ k, (refAfter nMax mem nsym maxbits k).phase ≠ .idle → (refAfter nMax mem nsym maxbits k).result = none
  | 0, _ => rfl
  | k + 1, h => by
    rw [refAfter] at h ⊢
    have hidle : (refAfter nMax mem nsym maxbits k).phase ≠ .idle := fun hidle => by
      rw [refCycle_idle hidle] at h
      exact h hidle
    have hfin : (refAfter nMax mem nsym maxbits k).phase ≠ .fin := fun hfin => by
      rw [refCycle_fin hfin] at h
      exact h rfl
    rw [refCycle_result hfin, refAfter_result_of_not_idle k hidle]

theorem refAfter_idle_mono {k m : Nat} (hkm : k ≤ m) (hidle : (refAfter nMax mem nsym maxbits k).phase = .idle) :
    (refAfter nMax mem nsym maxbits m).phase = .idle := by
  induction m, hkm using Nat.le_induction with
  | base => exact hidle
  | succ m _ ih => rwa [refAfter, refCycle_idle ih]

theorem refAfter_eq_iterate (k : Nat) :
    refAfter nMax mem nsym maxbits k = (refCycle nMax mem nsym maxbits)^[k] refStart := by
  induction k with
  | zero => rfl
  | succ k ih => rw [refAfter, ih, Function.iterate_succ_apply']

/-- `k` cycles after `q` the sequencer is in FIN and holds the outcome `r`. -/
def FinAfter (nMax : Nat) (mem : Memory 8) (nsym maxbits : Word) (k : Nat) (q : RefSeq) (r : CanonResult) : Prop :=
  ((refCycle nMax mem nsym maxbits)^[k] q).phase = .fin ∧ ((refCycle nMax mem nsym maxbits)^[k] q).outcome = r

theorem FinAfter.of_cycle {k : Nat} {q' : RefSeq} {r : CanonResult} (hc : refCycle nMax mem nsym maxbits q = q')
    (h : FinAfter nMax mem nsym maxbits k q' r) : FinAfter nMax mem nsym maxbits (k + 1) q r := by
  subst hc
  exact h

theorem FinAfter.delivers {k : Nat} {r : CanonResult} (h : FinAfter nMax mem nsym maxbits k refStart r) :
    (refAfter nMax mem nsym maxbits (k + 1)).result = some r
      ∧ ∀ j, j < k + 1 → (refAfter nMax mem nsym maxbits j).result = none := by
  rw [FinAfter, ← refAfter_eq_iterate] at h
  obtain ⟨hfin, hout⟩ := h
  refine ⟨by rw [refAfter, refCycle_fin hfin, hout], fun j hj => refAfter_result_of_not_idle j fun hidle => ?_⟩
  cases hfin.symm.trans (refAfter_idle_mono (Nat.le_of_lt_succ hj) hidle)

/-! ## The lengths a loop has still to visit -/

/-- `LEN_MEM[i..i+k-1]`, in index order. -/
def lengthsFrom (mem : Memory 8) (i k : Nat) : List Nat := (List.range' i k).map fun j => (mem.read j).toNat

theorem lengthsFrom_succ (mem : Memory 8) (i k : Nat) :
    lengthsFrom mem i (k + 1) = (mem.read i).toNat :: lengthsFrom mem (i + 1) k := rfl

theorem lengthsOf_eq_lengthsFrom (mem : Memory 8) (n : Nat) : lengthsOf mem n = lengthsFrom mem 0 n := by
  rw [lengthsOf, List.range_eq_range', lengthsFrom]

/-! ## ASGN -/

/-- The result of step 3 on `lens`, from the arrays and the codes written so far. -/
def assignedFrom (codes : List Nat) (bl nc : LenTable) (lens : List Nat) : CanonResult :=
  .ok (codes ++ (assignCodes lens nc).1) bl (assignCodes lens nc).2

theorem RefSeq.assignedFrom_nil (hf : q.failure = none) : assignedFrom q.codes q.bl q.nc [] = q.outcome := by
  simp [assignedFrom, assignCodes, outcome_of_no_failure hf]

theorem RefSeq.assignedFrom_cons (len : Nat) (rest : List Nat) :
    assignedFrom q.codes q.bl q.nc (len :: rest) =
      assignedFrom (q.assignOne len).codes (q.assignOne len).bl (q.assignOne len).nc rest := by
  by_cases hlen : len = 0 <;> simp [assignedFrom, assignOne, assignCodes, hlen]

theorem finAfter_asgn (k : Nat) : ∀ q : RefSeq, q.phase = .asgn → q.failure = none → q.index + (k + 1) = nsym.toNat →
    FinAfter nMax mem nsym maxbits (k + 1) q (assignedFrom q.codes q.bl q.nc (lengthsFrom mem q.index (k + 1))) := by
  induction k with
  | zero =>
    intro q hp hf hi
    rw [lengthsFrom_succ, RefSeq.assignedFrom_cons]
    refine .of_cycle ((refCycle_asgn hp).trans (if_neg (by omega))) ⟨rfl, ?_⟩
    exact (RefSeq.assignedFrom_nil (q := { q.assignOne _ with phase := .fin }) hf).symm
  | succ k ih =>
    intro q hp hf hi
    rw [lengthsFrom_succ, RefSeq.assignedFrom_cons]
    refine .of_cycle ((refCycle_asgn hp).trans (if_pos (by omega))) ?_
    exact ih { q.assignOne _ with index := q.index + 1 } hp hf (by rw [← hi, Nat.add_assoc, Nat.add_comm 1])

theorem finAfter_enterAsgn (hf : q.failure = none) :
    FinAfter nMax mem nsym maxbits nsym.toNat (refEnterAsgn nsym.toNat q)
      (assignedFrom q.codes q.bl q.nc (lengthsOf mem nsym.toNat)) := by
  rw [lengthsOf_eq_lengthsFrom]
  cases hn : nsym.toNat with
  | zero => exact ⟨rfl, (RefSeq.assignedFrom_nil (q := { q with phase := .fin }) hf).symm⟩
  | succ n => exact finAfter_asgn n { q with phase := .asgn, index := 0 } rfl hf ((Nat.zero_add _).trans hn.symm)

/-! ## GEN -/

theorem finAfter_gen (k : Nat) : ∀ q : RefSeq, q.phase = .gen → q.failure = none → q.index + k = maxbits.toNat →
    FinAfter nMax mem nsym maxbits (k + 1 + nsym.toNat) q
      (assignedFrom q.codes q.bl (startCodesFrom q.bl (k + 1) q.index q.code q.nc) (lengthsOf mem nsym.toNat)) := by
  induction k with
  | zero =>
    intro q hp hf hi
    rw [Nat.add_comm]
    exact .of_cycle ((refCycle_gen hp).trans (if_neg (by omega))) (finAfter_enterAsgn (q := q.genOne) hf)
  | succ k ih =>
    intro q hp hf hi
    rw [Nat.add_right_comm]
    refine .of_cycle ((refCycle_gen hp).trans (if_pos (by omega))) ?_
    exact ih { q.genOne with index := q.index + 1 } hp hf (by rw [← hi, Nat.add_assoc, Nat.add_comm 1])

/-- Steps 2 and 3 on counts whose entry 0 is yet to be forced to 0. -/
theorem finAfter_enterGen (hf : q.failure = none) :
    FinAfter nMax mem nsym maxbits (maxbits.toNat + nsym.toNat) (refEnterGen nsym.toNat maxbits.toNat q)
      (assignedFrom q.codes (q.bl.put 0 0) (startCodesFrom (q.bl.put 0 0) maxbits.toNat 1 0 q.nc)
        (lengthsOf mem nsym.toNat)) := by
  cases hm : maxbits.toNat with
  | zero =>
    rw [Nat.zero_add]
    exact finAfter_enterAsgn (q := { q with bl := q.bl.put 0 0 }) hf
  | succ m =>
    exact finAfter_gen m { q with phase := .gen, index := 1, code := 0, bl := q.bl.put 0 0 } rfl hf
      ((Nat.add_comm 1 m).trans hm.symm)

/-! ## COUNT -/

/-- COUNT without a length above `maxbits`, and the phases after it. -/
theorem finAfter_count (hle : ∀ i, i < nsym.toNat → (mem.read i).toNat ≤ maxbits.toNat) (k : Nat) :
    ∀ q : RefSeq, q.phase = .count → q.failure = none → q.index + (k + 1) = nsym.toNat →
      ∀ bl, bl = (countLengths (lengthsFrom mem q.index (k + 1)) q.bl).put 0 0 →
        FinAfter nMax mem nsym maxbits (k + 1 + (maxbits.toNat + nsym.toNat)) q
          (assignedFrom q.codes bl (startCodesFrom bl maxbits.toNat 1 0 q.nc) (lengthsOf mem nsym.toNat)) := by
  induction k with
  | zero =>
    rintro q hp hf hi _ rfl
    rw [Nat.add_comm]
    refine .of_cycle ((refCycle_count_of_le hp (hle _ (by omega))).trans (if_neg (by omega))) ?_
    exact finAfter_enterGen (q := q.countOne _) hf
  | succ k ih =>
    rintro q hp hf hi _ rfl
    rw [Nat.add_right_comm]
    refine .of_cycle ((refCycle_count_of_le hp (hle _ (by omega))).trans (if_pos (by omega))) ?_
    exact ih { q.countOne _ with index := q.index + 1 } hp hf (by rw [← hi, Nat.add_assoc, Nat.add_comm 1]) _ rfl

theorem finAfter_enterCount (hf : q.failure = none)
    (hle : ∀ i, i < nsym.toNat → (mem.read i).toNat ≤ maxbits.toNat) {bl : LenTable}
    (hbl : bl = (countLengths (lengthsOf mem nsym.toNat) q.bl).put 0 0) :
    FinAfter nMax mem nsym maxbits (nsym.toNat + (maxbits.toNat + nsym.toNat))
      (refEnterCount nsym.toNat maxbits.toNat q)
      (assignedFrom q.codes bl (startCodesFrom bl maxbits.toNat 1 0 q.nc) (lengthsOf mem nsym.toNat)) := by
  unfold refEnterCount
  split
  · rename_i hn
    have hadd (m : Nat) : nsym.toNat + m = m := by rw [hn, Nat.zero_add]
    rw [hn] at hbl
    rw [hbl, hadd]
    exact finAfter_enterGen hf
  · rename_i hn
    obtain ⟨n, hn⟩ := Nat.exists_eq_succ_of_ne_zero hn
    rw [lengthsOf_eq_lengthsFrom, hn] at hbl
    have h := finAfter_count (nMax := nMax) hle n { q with phase := .count, index := 0 } rfl hf
      ((Nat.zero_add _).trans hn.symm) bl hbl
    rwa [← Nat.succ_eq_add_one, ← hn] at h

theorem firstTooLong_lengthsOf {mb n j len : Nat} (h : firstTooLong mb 0 (lengthsOf mem n) = some (j, len)) :
    j < n ∧ len = (mem.read j).toNat ∧ mb < len ∧ ∀ i, i < j → (mem.read i).toNat ≤ mb := by
  obtain ⟨k, hk, hlt, hlen, hmb, hbefore⟩ := firstTooLong_eq_some_iff.1 h
  obtain rfl : j = k := hk.trans (Nat.zero_add k)
  rw [lengthsOf_length] at hlt
  refine ⟨hlt, by rw [← hlen, lengthsOf_getD _ _ _ hlt], hmb, fun i hi => ?_⟩
  rw [← lengthsOf_getD mem n i (Nat.lt_trans hi hlt)]
  exact hbefore i hi

/-- COUNT stops at the first length above `maxbits` (R162). -/
theorem finAfter_count_tooLong {j : Nat} (hj : j < nsym.toNat) (hlt : maxbits.toNat < (mem.read j).toNat)
    (hle : ∀ i, i < j → (mem.read i).toNat ≤ maxbits.toNat) (k : Nat) :
    ∀ q : RefSeq, q.phase = .count → q.index + k = j →
      FinAfter nMax mem nsym maxbits (k + 1) q (.err .lenRange j (mem.read j).toNat) := by
  induction k with
  | zero =>
    rintro q hp rfl
    exact .of_cycle ((refCycle_count hp).trans (if_pos hlt)) ⟨rfl, rfl⟩
  | succ k ih =>
    intro q hp hi
    refine .of_cycle ((refCycle_count_of_le hp (hle _ (by omega))).trans (if_pos (by omega))) ?_
    exact ih { q.countOne _ with index := q.index + 1 } hp (by rw [← hi, Nat.add_assoc, Nat.add_comm 1])

/-! ## CHECK -/

/-- All phases: the outcome of each check of `CanonAssign`, one cycle before R244's count. -/
theorem finAfter_refStart :
    ∃ k, refCycles nsym maxbits (canonAssign nMax mem nsym maxbits) = k + 1
      ∧ FinAfter nMax mem nsym maxbits k refStart (canonAssign nMax mem nsym maxbits) := by
  have hcheck := refCycle_check (nMax := nMax) (mem := mem) (nsym := nsym) (maxbits := maxbits) (q := refStart) rfl
  by_cases hn : nMax < nsym.toNat
  · rw [canonAssign_of_many hn]
    exact ⟨1, rfl, .of_cycle (hcheck.trans (if_pos hn)) ⟨rfl, rfl⟩⟩
  rw [if_neg hn] at hcheck
  replace hn := Nat.not_lt.1 hn
  by_cases hmb : 15 < maxbits.toNat
  · rw [canonAssign_of_maxbits hn hmb]
    exact ⟨1, rfl, .of_cycle (hcheck.trans (if_pos hmb)) ⟨rfl, rfl⟩⟩
  rw [if_neg (show ¬ Config.mbMax < _ from hmb)] at hcheck
  replace hmb := Nat.not_lt.1 hmb
  cases hfirst : firstTooLong maxbits.toNat 0 (lengthsOf mem nsym.toNat) with
  | none =>
    have hlens := firstTooLong_eq_none 0 hfirst
    rw [canonAssign_of_legal hn hmb hlens]
    refine ⟨nsym.toNat + (maxbits.toNat + nsym.toNat) + 1, ?_, .of_cycle hcheck ?_⟩
    · simp only [assignLengths, refCycles]
      omega
    · exact finAfter_enterCount (q := refStart) rfl (forall_mem_lengthsOf.1 hlens) rfl
  | some found =>
    obtain ⟨j, len⟩ := found
    obtain ⟨hj, rfl, hlt, hle⟩ := firstTooLong_lengthsOf hfirst
    rw [canonAssign_of_tooLong hn hmb hfirst]
    rw [refEnterCount, if_neg (by omega)] at hcheck
    exact ⟨j + 1 + 1, rfl, .of_cycle hcheck (finAfter_count_tooLong hj hlt hle j _ rfl (Nat.zero_add j))⟩

end Reference

/-- Settles O56: the phases end in FIN with the result of `CanonAssign` one cycle before R244's count, and FIN
delivers it. -/
theorem referenceSequencerMeetsItsCycleCounts : Obligations.ReferenceSequencerMeetsItsCycleCounts := by
  rintro nMax mem nsym maxbits _ rfl
  obtain ⟨k, hk, hfin⟩ := finAfter_refStart (nMax := nMax) (mem := mem) (nsym := nsym) (maxbits := maxbits)
  rw [hk]
  exact hfin.delivers

end Sys2Proof.Machine
